-- ==== Sys2Proof/Word.lean ====
section
/-! DEFINITION. The word types of the controller: command and response words, bytes, line identifiers, handles. -/

namespace Sys2Proof

/-- A command word or a response word: `CMD_W` = 32 bits (R8, R70, R78). -/
abbrev Word := BitVec 32

/-- A transmitted byte, and `peerAddress` as supplied: `BYTE_W` = 8 bits (R8). -/
abbrev Byte := BitVec 8

/-- A line identifier: `LINE_ID_W` = 8 bits (R8, R51). -/
abbrev LineId := BitVec 8

/-- A context handle: `HANDLE_W` = 16 bits; 0 is the null handle (R8, R28). -/
abbrev Handle := BitVec 16

/-- A line level: `true` high, `false` low (R10). -/
abbrev Level := Bool

end Sys2Proof
end

