-- ==== Sys2Proof/Syntax.lean ====
section
/-! DEFINITION. The commands: one constructor per row of spec/opcode_table.json (R74). -/

namespace Sys2Proof

/-- The five commands of the opcode map (R74), with the operands of formats I, H and W (R71 to R73). -/
inductive Instr where
  /-- `INIT` (Initialize), format I: `ack` is bit 27, `slotOk` bit 26 (R71). -/
  | init (ack slotOk : Bool) (peerAddress : Byte) (clockLine dataLine : LineId)
  /-- `START` (StartXmit), format H (R72). -/
  | start (handle : Handle)
  /-- `WRITE` (Write), format W (R73). -/
  | write (byte : Byte) (handle : Handle)
  /-- `STOP` (StopXmit), format H (R72). -/
  | stop (handle : Handle)
  /-- `FREE` (FreeContext), format H (R72). -/
  | free (handle : Handle)
  deriving DecidableEq, Repr

end Sys2Proof
end

