-- ==== Sys2Proof/Decode.lean ====
section
/-! DEFINITION. The decoder of command words (R74 to R76) and, after it, the encoder (R71 to R73). -/

namespace Sys2Proof

/-- Why a word is an illegal command (R76). -/
inductive DecodeError where
  /-- The opcode is 0x0 or 0x6..0xF. -/
  | reservedOp
  /-- The opcode is legal and a reserved bit of its format is 1. -/
  | reservedBits
  deriving DecidableEq, Repr

/-- A row of the decoding table: `w` selects the row when `w & mask = pattern` (R75; the table's column `match`). -/
structure OpcodeRow where
  mask    : Word
  pattern : Word
  deriving DecidableEq, Repr

/-- The word selects the row (R75). -/
def rowSelected (r : OpcodeRow) (w : Word) : Bool :=
  w &&& r.mask == r.pattern

/-- The row of `INIT` (R75). -/
def rowInit : OpcodeRow := ⟨0xF3000000#32, 0x10000000#32⟩
/-- The row of `START` (R75). -/
def rowStart : OpcodeRow := ⟨0xFFFF0000#32, 0x20000000#32⟩
/-- The row of `WRITE` (R75). -/
def rowWrite : OpcodeRow := ⟨0xFF000000#32, 0x30000000#32⟩
/-- The row of `STOP` (R75). -/
def rowStop : OpcodeRow := ⟨0xFFFF0000#32, 0x40000000#32⟩
/-- The row of `FREE` (R75). -/
def rowFree : OpcodeRow := ⟨0xFFFF0000#32, 0x50000000#32⟩

/-- The decoding table in the order of R75. -/
def opcodeRows : List OpcodeRow := [rowInit, rowStart, rowWrite, rowStop, rowFree]

/-- Field `ack` of format I, bit 27 (R71). -/
def fieldAck (w : Word) : Bool := w.getLsbD 27
/-- Field `slot_ok` of format I, bit 26 (R71). -/
def fieldSlotOk (w : Word) : Bool := w.getLsbD 26
/-- Field `peerAddress` of format I, bits 23:16 (R71). -/
def fieldPeerAddress (w : Word) : Byte := w.extractLsb' 16 8
/-- Field `clockLine` of format I, bits 15:8 (R71). -/
def fieldClockLine (w : Word) : LineId := w.extractLsb' 8 8
/-- Field `dataLine` of format I, bits 7:0 (R71). -/
def fieldDataLine (w : Word) : LineId := w.extractLsb' 0 8
/-- Field `byte` of format W, bits 23:16 (R73). -/
def fieldByte (w : Word) : Byte := w.extractLsb' 16 8
/-- Field `handle` of formats H and W, bits 15:0 (R72, R73). -/
def fieldHandle (w : Word) : Handle := w.extractLsb' 0 16

/-- The decoder: the command of the first selected row, or why the word is illegal (R75, R76). Total: every 32-bit
word is one of the five commands or illegal. -/
def decode (w : Word) : Except DecodeError Instr :=
  if rowSelected rowInit w then
    .ok (.init (fieldAck w) (fieldSlotOk w) (fieldPeerAddress w) (fieldClockLine w) (fieldDataLine w))
  else if rowSelected rowStart w then .ok (.start (fieldHandle w))
  else if rowSelected rowWrite w then .ok (.write (fieldByte w) (fieldHandle w))
  else if rowSelected rowStop w then .ok (.stop (fieldHandle w))
  else if rowSelected rowFree w then .ok (.free (fieldHandle w))
  else if (w.extractLsb' 28 4).toNat = 0 ∨ 6 ≤ (w.extractLsb' 28 4).toNat then .error .reservedOp
  else .error .reservedBits

/-- The decoder's answer to a word numbered as spec/opcode_table.json numbers it. A command is one 32-bit word
presented whole (R55, R70), so the table's numbering is the word's own; bits above `nbits` are 0, and a word longer
than 32 bits is no command. -/
def decodeTableWord (nbits w : Nat) : Option Instr :=
  if nbits ≤ 32 then
    match decode (BitVec.ofNat 32 (w % 2 ^ nbits)) with
    | .ok i => some i
    | .error _ => none
  else none

/-- The word of format I (R71). -/
def wordI (ack slotOk : Bool) (peerAddress : Byte) (clockLine dataLine : LineId) : Word :=
  0x1#4 ++ BitVec.ofBool ack ++ BitVec.ofBool slotOk ++ 0b00#2 ++ peerAddress ++ clockLine ++ dataLine

/-- The word of format H (R72). -/
def wordH (op : BitVec 4) (handle : Handle) : Word :=
  op ++ 0x000#12 ++ handle

/-- The word of format W (R73). -/
def wordW (byte : Byte) (handle : Handle) : Word :=
  0x3#4 ++ 0x0#4 ++ byte ++ handle

/-- The encoder: the one word of an instruction (R71 to R74). -/
def encode (i : Instr) : Word :=
  match i with
  | .init ack slotOk peerAddress clockLine dataLine => wordI ack slotOk peerAddress clockLine dataLine
  | .start handle => wordH 0x2#4 handle
  | .write byte handle => wordW byte handle
  | .stop handle => wordH 0x4#4 handle
  | .free handle => wordH 0x5#4 handle

/-- The pseudo-instruction `XMIT h, b0, b1, ..., bn-1` with `n >= 1`, as the list of commands the host issues (R86). -/
def xmit (handle : Handle) (first : Byte) (others : List Byte) : List Instr :=
  [.start handle] ++ (first :: others).map (fun b => Instr.write b handle) ++ [.stop handle]

end Sys2Proof
end

