-- ==== Sys2Proof/Config.lean ====
section
/-! DEFINITION. What an implementation fixes (R8, R33, R41) and the free values the environment supplies. -/

namespace Sys2Proof

/-- `IRQ_SERVICE`: how soon an enabled handler runs, `prompt` (R193) or `lazy` (R199). -/
inductive IrqService where
  | prompt
  | lazy
  deriving DecidableEq, Repr

/-- The answer of `LineCfg` or `ArmIrq`, an input from the environment (R52, R190, D26). -/
inductive Answer where
  | ok
  | fail
  deriving DecidableEq, Repr, Inhabited

/-- A draw of `selfTag` (R28: any non-zero 16-bit value): the draw `k` stands for the tag `k + 1`, so that the 65535
draws are exactly the legal tags. -/
abbrev TagDraw := Fin 65535

/-- The parameters of the controller (R8). They are no state (R41): no step writes them; they are held beside the
state because the step takes nothing else (log entry 4). -/
structure Config where
  /-- `VALID_LINES`, OPEN: the identifiers that are valid digital I/O lines (R51). -/
  validLines   : List LineId
  /-- `T_HD_STA_NS`, the hold time before start, a floor in nanoseconds (R204). -/
  tHdStaNs     : Nat
  /-- `T_SU_STO_NS`, the setup time before stop, a floor in nanoseconds (R204). -/
  tSuStoNs     : Nat
  /-- `T_BUF_NS`, the bus-free time, a floor in nanoseconds (R204). -/
  tBufNs       : Nat
  /-- `T_ACK_SETTLE_NS`, the settle interval, approximate, in nanoseconds (R204). -/
  tAckSettleNs : Nat
  /-- `CPU_HZ`, OPEN: counter cycles per second of the Timing Primitive (R33). -/
  cpuHz        : Nat
  /-- `IRQ_SERVICE` (R193, R199). -/
  irqService   : IrqService
  deriving DecidableEq, Repr

/-- The configuration after reset: the defaults of R8 for the four intervals and for `IRQ_SERVICE` (D14). DESIGN
CHOICE (log entry 4): the OPEN `VALID_LINES` is the set 2..27 that the test vectors of `95_test_vectors.md` use, and
the OPEN `CPU_HZ` is 10^9. Unsafe for a claim that rests on either value. -/
def Config.default : Config where
  validLines := (List.range 26).map fun k => BitVec.ofNat 8 (k + 2)
  tHdStaNs := 600
  tSuStoNs := 600
  tBufNs := 1300
  tAckSettleNs := 100
  cpuHz := 1000000000
  irqService := .prompt

/-- FREE VALUE (U9, log entry 3): the answer of the `LineCfg` call at the given count of free draws. -/
opaque Config.freeCfgAnswer : Nat → Answer

/-- FREE VALUE (U9, log entry 3): the answer of the `ArmIrq` call at the given count of free draws. -/
opaque Config.freeArmAnswer : Nat → Answer

/-- FREE VALUE (U10, R105, log entry 3): the tag drawn at `I6` at the given count of free draws. -/
opaque Config.freeTagDraw : Nat → TagDraw

end Sys2Proof
end

