-- ==== Sys2Proof/Machine/State.lean ====
section
/-! DEFINITION. The state of the controller (10_state.md), its faults and refusals, and the state after reset. -/

namespace Sys2Proof.Machine

/-- The protocol state `ctx.state`: five values and no other (R24, R25). -/
inductive ProtoState where
  | ready
  | start
  | ackWait
  | write
  | stop
  deriving DecidableEq, Repr

/-- The status codes 0 to 11, in the order of their numbers (R80). -/
inductive Status where
  | ok
  | invalidSlot
  | invalidLine
  | reservedAddr
  | addrTooLarge
  | alloc
  | lineConfig
  | irqArm
  | invalidTransition
  | nack
  | badHandle
  | illegalCmd
  deriving DecidableEq, Repr

/-- The named intervals of the Timing Primitive (R204). -/
inductive Interval where
  | tHdSta
  | tSuSto
  | tBuf
  | tAckSettle
  deriving DecidableEq, Repr

/-- What one run of the handler did (R151). -/
inductive IrqOutcome where
  | taken
  | ignored
  deriving DecidableEq, Repr

/-- An event of the trace (R12). -/
inductive Event where
  /-- `Cfg(c, d, answer)`. -/
  | cfg (clockLine dataLine : LineId) (answer : Answer)
  /-- `W(id, v)`. -/
  | lineWrite (id : LineId) (level : Level)
  /-- `D(name)`. -/
  | delay (interval : Interval)
  /-- `Arm(d, answer)`. -/
  | arm (dataLine : LineId) (answer : Answer)
  /-- `Disarm`. -/
  | disarm
  /-- `Edge`. -/
  | edge
  /-- `Irq(taken|ignored)`. -/
  | irq (outcome : IrqOutcome)
  /-- `Cmd(word)`. -/
  | cmd (word : Word)
  /-- `Resp(status, handle)`. -/
  | resp (status : Status) (handle : Handle)
  deriving DecidableEq, Repr

/-- The Transaction Context: the one record of a configured peer (R20 to R28). -/
structure Context where
  /-- `addr_s`, the peer address shifted left by one (R21). -/
  addrS         : Byte
  /-- The identifier of the clock line (R22). -/
  clockLine     : LineId
  /-- The identifier of the data line (R22). -/
  dataLine      : LineId
  /-- Whether the acknowledge interrupt is used (R23). -/
  ackEnabled    : Bool
  /-- The protocol state (R24). -/
  state         : ProtoState
  /-- The diagnostic counter, an unbounded natural number (R26, R27; log entry 11). -/
  ackEventCount : Nat
  /-- The identity the context records of itself, the handle's value (R28). -/
  selfTag       : Handle
  deriving DecidableEq, Repr

/-- The micro-step labels of the foreground sequencer (R34). -/
inductive Label where
  | idle
  | i0 | i1 | i2 | i3 | i4 | i5 | i6 | i7 | i8
  | f0 | f1 | f2
  | s0 | s1 | s2 | s3 | s4 | s5 | s6
  | w0 | w1 | w2 | w3 | w4
  | p0 | p1 | p2 | p3 | p4 | p5 | p6
  | x0
  | b0 | b1 | b2
  | a0 | a1 | a2 | a3 | a4 | a5 | a6 | a7
  deriving DecidableEq, Repr

/-- The label SendByte returns to (R35: one of `S6`, `W3`). -/
inductive ReturnLabel where
  | s6
  | w3
  deriving DecidableEq, Repr

/-- One move of the agents other than the foreground, at a boundary between two of its micro-steps (R13, R60). -/
inductive Move where
  /-- The environment raises a falling edge (R191). -/
  | edge
  /-- The handler runs if it is enabled (R193, R199); no effect where it is not. -/
  | serve
  deriving DecidableEq, Repr

/-- One turn of the host (R13): it presents a command word (R70), or it presents none. -/
inductive HostTurn where
  | command (word : Word)
  | idle
  deriving DecidableEq, Repr

/-- The MODEL's own record of what the agents outside the block will do (log entries 2 and 3): the inputs of R41 as
plain data, so that a statement over all states holds for every environment and every host. -/
structure Env where
  /-- The turns of the host still to come, the next one first. An exhausted list: the host presents nothing. -/
  turns      : List HostTurn
  /-- The moves at each boundary still to come, the next one first. An exhausted list: no edge is raised. -/
  moves      : List (List Move)
  /-- The answers of `LineCfg` still to come. An exhausted list: the free values `Config.freeCfgAnswer`. -/
  cfgAnswers : List Answer
  /-- The answers of `ArmIrq` still to come. An exhausted list: the free values `Config.freeArmAnswer`. -/
  armAnswers : List Answer
  /-- The draws of `selfTag` still to come. An exhausted list: the free values `Config.freeTagDraw`. -/
  tagDraws   : List TagDraw
  /-- How many free values have been taken. -/
  draws      : Nat
  deriving DecidableEq, Repr

/-- The state of the machine (10_state.md), with the configuration it runs under, the trace that R12 gives every
execution, and the model's record of the outside world. -/
structure State where
  /-- The parameters of R8; no step writes them (log entry 4). -/
  cfg        : Config
  /-- The one context slot (R20): `ctx_valid = 1` is `some` (R29, log entry 6). -/
  ctx        : Option Context
  /-- The acknowledge interrupt of the data line is armed (R30). -/
  armed      : Bool
  /-- The pending-interrupt condition at the line controller (R31). -/
  irqPending : Bool
  /-- The level last written to the data line, or no value (R32). -/
  sdaDrv     : Option Level
  /-- The level last written to the clock line, or no value (R32). -/
  sclDrv     : Option Level
  /-- The micro-step label of the foreground (R34). -/
  upc        : Label
  /-- The byte being serialised (R35). -/
  txbyte     : Byte
  /-- The index of the bit to send next (R35: a number in 0..7). -/
  bitidx     : Fin 8
  /-- The label SendByte returns to (R35). -/
  ret        : ReturnLabel
  /-- The foreground's private copy of the sample taken at `A6` (R36). -/
  acked      : Bool
  /-- SendByte's answer until the command responds (R36). -/
  result     : Status
  /-- The command word being executed (R36). -/
  cmd        : Word
  /-- The response word (R37, R78). -/
  resp       : Word
  /-- The trace, oldest event first (R12). -/
  trace      : List Event
  /-- The agents outside the block (R13, R41). -/
  env        : Env
  deriving DecidableEq, Repr

/-- The reasons the machine stops. The block itself never traps (R180). -/
inductive Fault where
  /-- Raised by `exec` and `step` in a state where a micro-program that reads `ctx` is under way and the slot is empty:
  then no field of `ctx` holds a value (R20) and no step is defined. No run from reset reaches such a state. Safe: the
  model stops and invents no value (log entry 9). -/
  | emptySlot
  deriving DecidableEq, Repr

/-- The reasons an instruction has no meaning. -/
inductive Refusal where
  /-- Raised by an arm of `exec` whose instruction has no meaning yet. Safe: nothing is claimed of it. -/
  | notModelled (mnemonic : String)
  deriving DecidableEq, Repr

/-- The inputs after reset: none given yet (DESIGN CHOICE, log entries 2 and 3). -/
def Env.reset : Env where
  turns := []
  moves := []
  cfgAnswers := []
  armAnswers := []
  tagDraws := []
  draws := 0

/-- The machine right after reset (R45, R220): the slot empty, nothing armed or pending, the sequencer idle, the line
shadows without a value, an empty trace. R45 leaves `txbyte`, `bitidx`, `ret`, `acked`, `result`, `cmd` and `resp`
unspecified: DESIGN CHOICE, the all-zero value of each (log entry 5; unsafe). -/
def State.reset : State where
  cfg := Config.default
  ctx := none
  armed := false
  irqPending := false
  sdaDrv := none
  sclDrv := none
  upc := .idle
  txbyte := 0
  bitidx := 0
  ret := .s6
  acked := false
  result := .ok
  cmd := 0
  resp := 0
  trace := []
  env := Env.reset

end Sys2Proof.Machine
end

