-- ==== Sys2Proof/Machine/Operands.lean ====
section
/-! DEFINITION. Operand assembly (R82), the address contract (R102), the handle check (R111), and the numeric codes of
the ports (R24, R80, R38). -/

namespace Sys2Proof.Machine

/-- `cmd.slot_ok` (R71). -/
def cmdSlotOk (s : State) : Bool := fieldSlotOk s.cmd
/-- `cmd.ack` (R71). -/
def cmdAck (s : State) : Bool := fieldAck s.cmd
/-- `cmd.peerAddress` (R71). -/
def cmdPeerAddress (s : State) : Byte := fieldPeerAddress s.cmd
/-- `cmd.clockLine` (R71). -/
def cmdClockLine (s : State) : LineId := fieldClockLine s.cmd
/-- `cmd.dataLine` (R71). -/
def cmdDataLine (s : State) : LineId := fieldDataLine s.cmd
/-- `cmd.byte` (R73). -/
def cmdByte (s : State) : Byte := fieldByte s.cmd
/-- `cmd.handle` (R72, R73). -/
def cmdHandle (s : State) : Handle := fieldHandle s.cmd

/-- The shifted address `S = zext_9(peerAddress) << 1`, nine bits, no bit lost (R82 (a), D10). -/
def shiftedAddress (peerAddress : Byte) : BitVec 9 :=
  peerAddress.setWidth 9 <<< 1

/-- `Reserved(S)` (R102). -/
def reservedAddress (S : BitVec 9) : Bool :=
  decide (S ≤ 0x0F#9) || (decide (0xF0#9 ≤ S) && decide (S ≤ 0xF7#9)) ||
    S == 0xF9#9 || S == 0xFB#9 || S == 0xFD#9 || S == 0xFF#9

/-- `TooLarge(S)` (R102): not reserved and above `0x7F`. -/
def addressTooLarge (S : BitVec 9) : Bool :=
  !reservedAddress S && decide (0x7F#9 < S)

/-- `Accepted(S)` (R102). -/
def addressAccepted (S : BitVec 9) : Bool :=
  !reservedAddress S && decide (S ≤ 0x7F#9)

/-- The stored address `ctx.addr_s = S[7:0]` (R82 (b), R21). -/
def storedAddress (peerAddress : Byte) : Byte :=
  (shiftedAddress peerAddress).setWidth 8

/-- The address byte on the wire, `ctx.addr_s & 0xFE` (R82 (c), R162). -/
def wireAddress (addrS : Byte) : Byte := addrS &&& 0xFE#8

/-- The level of the bit sent at `B0`: `txbyte[bitidx]` (R82 (e)). -/
def txBit (s : State) : Level := s.txbyte.getLsbD s.bitidx.val

/-- The tag a draw stands for: any non-zero 16-bit value (R28). -/
def tagOfDraw (k : TagDraw) : Handle := BitVec.ofNat 16 (k.val + 1)

/-- The line identifier is a member of `VALID_LINES` (R51). -/
def validLine (cfg : Config) (id : LineId) : Bool := cfg.validLines.contains id

/-- `ctx_valid` (R29). -/
def ctxValid (s : State) : Bool := s.ctx.isSome

/-- `HandleOk(h) := ctx_valid = 1 and h = ctx.selfTag` (R111). -/
def handleOk (h : Handle) (s : State) : Bool :=
  match s.ctx with
  | some c => h == c.selfTag
  | none => false

/-- The label named by `ret` (R35). -/
def returnLabel (r : ReturnLabel) : Label :=
  match r with
  | .s6 => .s6
  | .w3 => .w3

/-- The data line of a line write: the context's, or the command's before a context is constructed (R52). -/
def busDataLine (s : State) : LineId :=
  match s.ctx with
  | some c => c.dataLine
  | none => cmdDataLine s

/-- The clock line of a line write: the context's, or the command's before a context is constructed (R52). -/
def busClockLine (s : State) : LineId :=
  match s.ctx with
  | some c => c.clockLine
  | none => cmdClockLine s

/-- The number of a status code, 4 bits (R80). -/
def statusCode (st : Status) : BitVec 4 :=
  match st with
  | .ok => 0
  | .invalidSlot => 1
  | .invalidLine => 2
  | .reservedAddr => 3
  | .addrTooLarge => 4
  | .alloc => 5
  | .lineConfig => 6
  | .irqArm => 7
  | .invalidTransition => 8
  | .nack => 9
  | .badHandle => 10
  | .illegalCmd => 11

/-- The response word: zeros in 31:20, the status in 19:16, `handle_out` in 15:0 (R78). -/
def responseWord (st : Status) (h : Handle) : Word :=
  0x000#12 ++ statusCode st ++ h

/-- `resp.status`, bits 19:16 of the response word (R78). -/
def respStatus (s : State) : BitVec 4 := s.resp.extractLsb' 16 4

/-- `resp.handle_out`, bits 15:0 of the response word (R78). -/
def respHandle (s : State) : Handle := s.resp.extractLsb' 0 16

/-- The number of a protocol state on the port (R24, R81). -/
def protoCode (q : ProtoState) : BitVec 3 :=
  match q with
  | .ready => 0
  | .start => 1
  | .ackWait => 2
  | .write => 3
  | .stop => 4

/-- The output `busy_o = (upc != Idle)` (R37). -/
def busyO (s : State) : Bool := s.upc != .idle

/-- The observation port `ctx_valid_o` (R38). -/
def ctxValidO (s : State) : Bool := ctxValid s

/-- The observation port `state_o`: no value while the slot is empty (R38). -/
def stateO (s : State) : Option (BitVec 3) := s.ctx.map fun c => protoCode c.state

/-- The observation port `ack_count_o`: no value while the slot is empty (R38). -/
def ackCountO (s : State) : Option Nat := s.ctx.map fun c => c.ackEventCount

/-- The floor of a named interval in nanoseconds (R33, R204). -/
def intervalNs (cfg : Config) (n : Interval) : Nat :=
  match n with
  | .tHdSta => cfg.tHdStaNs
  | .tSuSto => cfg.tSuStoNs
  | .tBuf => cfg.tBufNs
  | .tAckSettle => cfg.tAckSettleNs

/-- `cycles(name) = ceil(T_name_NS * CPU_HZ / 10^9)` (R33). Nothing in the untimed model reads it (log entry 15). -/
def intervalCycles (cfg : Config) (n : Interval) : Nat :=
  (intervalNs cfg n * cfg.cpuHz + (1000000000 - 1)) / 1000000000

end Sys2Proof.Machine
end

