-- ==== Sys2Proof/Machine/Ops.lean ====
section
/-! DEFINITION. The shared operations: the trace, the micro-step label, `respond`, the Line Interface and the Timing
Primitive (R11, R52), the environment's answers, and the host's command port. -/

namespace Sys2Proof.Machine

/-- Append an event to the trace (R12). -/
def logEvent (e : Event) (s : State) : State :=
  { s with trace := s.trace ++ [e] }

/-- `upc <- l` (R11). -/
def goto (l : Label) (s : State) : State :=
  { s with upc := l }

/-- `respond(st, h)`: write the response word and end the command (R11, R78). The one way a command ends, with success
or with an error: the block never traps (R180). -/
def respond (st : Status) (h : Handle) (s : State) : State :=
  { s with resp := responseWord st h, upc := .idle, trace := s.trace ++ [.resp st h] }

/-- Replace the record in the context slot. -/
def setCtx (c : Context) (s : State) : State :=
  { s with ctx := some c }

/-- `ctx_valid <- 0`: the slot is empty (R29). -/
def releaseCtx (s : State) : State :=
  { s with ctx := none }

/-- `bitidx <- n` (R35). -/
def setBitidx (n : Fin 8) (s : State) : State :=
  { s with bitidx := n }

/-- `result <- st` (R36). -/
def setResult (st : Status) (s : State) : State :=
  { s with result := st }

/-- Run a micro-step that reads the context. With an empty slot no field holds a value (R20) and no step is defined:
the machine stays where it is, and `exec` and `step` answer the fault `emptySlot` (log entry 9). -/
def withCtx (s : State) (k : Context → State) : State :=
  match s.ctx with
  | some c => k c
  | none => s

/-- `LineWrite(id, v)`: drive a line, update the shadow of each of the two lines that `id` names, and record it; it
cannot fail and is complete before the next micro-step (R52, R57, R61). It raises no `Edge` (R192, log entry 7). -/
def lineWrite (id : LineId) (v : Level) (s : State) : State :=
  { s with
    sdaDrv := if id = busDataLine s then some v else s.sdaDrv
    sclDrv := if id = busClockLine s then some v else s.sclDrv
    trace := s.trace ++ [.lineWrite id v] }

/-- `Delay(name)`: busy-wait at least the named interval; the untimed model records it (R11, R204, log entry 15). -/
def delay (n : Interval) (s : State) : State :=
  logEvent (.delay n) s

/-- The environment's answer to a call of `LineCfg`: the script's next one, else a free value (U9, log entry 3). -/
def nextCfgAnswer (e : Env) : Answer × Env :=
  match e.cfgAnswers with
  | a :: rest => (a, { e with cfgAnswers := rest })
  | [] => (Config.freeCfgAnswer e.draws, { e with draws := e.draws + 1 })

/-- The environment's answer to a call of `ArmIrq`: the script's next one, else a free value (U9, log entry 3). -/
def nextArmAnswer (e : Env) : Answer × Env :=
  match e.armAnswers with
  | a :: rest => (a, { e with armAnswers := rest })
  | [] => (Config.freeArmAnswer e.draws, { e with draws := e.draws + 1 })

/-- The environment's draw of a tag: the script's next one, else a free value (U10, log entry 3). -/
def nextTagDraw (e : Env) : TagDraw × Env :=
  match e.tagDraws with
  | k :: rest => (k, { e with tagDraws := rest })
  | [] => (Config.freeTagDraw e.draws, { e with draws := e.draws + 1 })

/-- `LineCfg(c, d)`: ask the Line Interface to configure both lines; writes no level (R52). -/
def lineCfg (c d : LineId) (s : State) : Answer × State :=
  let a := nextCfgAnswer s.env
  (a.1, { s with env := a.2, trace := s.trace ++ [.cfg c d a.1] })

/-- `ArmIrq(d)`: ask the line controller to raise the acknowledge interrupt on every falling edge of `d` (R190). -/
def armIrq (d : LineId) (s : State) : Answer × State :=
  let a := nextArmAnswer s.env
  (a.1, { s with env := a.2, trace := s.trace ++ [.arm d a.1] })

/-- `draw t : t != 0` (R11, R28). -/
def drawTag (s : State) : Handle × State :=
  let k := nextTagDraw s.env
  (tagOfDraw k.1, { s with env := k.2 })

/-- Enter SendByte with the byte `b`, to return to `r`: `txbyte <- b ; bitidx <- 7 ; ret <- r ; upc <- B0` (R131). -/
def enterSendByte (b : Byte) (r : ReturnLabel) (s : State) : State :=
  { s with txbyte := b, bitidx := 7, ret := r, upc := .b0 }

/-- Accept a command word: latch it, record `Cmd(word)` and go to the first label of its micro-program (R70). -/
def accept (w : Word) (first : Label) (s : State) : State :=
  { s with cmd := w, upc := first, trace := s.trace ++ [.cmd w] }

/-- Take the host's next turn off the list. -/
def dropTurn (s : State) : State :=
  { s with env := { s.env with turns := s.env.turns.tail } }

/-- The host presents the command word `w` as its next turn. -/
def presentWord (w : Word) (s : State) : State :=
  { s with env := { s.env with turns := .command w :: s.env.turns } }

end Sys2Proof.Machine
end

