-- ==== Sys2Proof/Machine/Flags.lean ====
section
/-! DEFINITION. The flag-like state (R39): `armed`, `irq_pending` and `acked`, and who writes them (R42). -/

namespace Sys2Proof.Machine

/-- The environment's event `Edge`: `irq_pending <- 1` if `armed = 1`, else nothing; a pending condition merges with
the new one (R31, R191). -/
def raiseEdge (s : State) : State :=
  { s with irqPending := s.irqPending || s.armed, trace := s.trace ++ [.edge] }

/-- `armed <- 1` (R106). -/
def setArmed (s : State) : State :=
  { s with armed := true }

/-- `armed <- 0 ; irq_pending <- 0`, with the event `Disarm` when `armed` was 1 (R110, R113). -/
def disarm (s : State) : State :=
  { s with
    armed := false
    irqPending := false
    trace := if s.armed then s.trace ++ [.disarm] else s.trace }

/-- The handler is enabled: `ctx_valid = 1` and `armed = 1` and `irq_pending = 1` (R152, R193). -/
def handlerEnabled (s : State) : Bool :=
  ctxValid s && s.armed && s.irqPending

/-- `acked <- (ctx.state != AckWait)`, the sample of `A6` (R36, R136). -/
def sampleAck (c : Context) (s : State) : State :=
  { s with acked := c.state != .ackWait }

end Sys2Proof.Machine
end

