-- ==== Sys2Proof/Machine/StateMachine.lean ====
section
/-! DEFINITION. The State Machine: the internal procedure `Transition` (41_state_machine.md). -/

namespace Sys2Proof.Machine

/-- `LEGAL`: the eight legal non-identity edges (R123). `Stop -> AckWait` is not among them (R125). -/
def legalEdges : List (ProtoState × ProtoState) :=
  [(.ready, .start), (.start, .ackWait), (.start, .write), (.write, .ackWait),
   (.ackWait, .write), (.write, .stop), (.stop, .ready), (.stop, .write)]

/-- `Transition(q)` on the context: its answer and the context after it (R121 to R124). -/
def transition (q : ProtoState) (c : Context) : Status × Context :=
  if q = c.state then (.ok, c)
  else if (c.state, q) ∈ legalEdges then (.ok, { c with state := q })
  else (.invalidTransition, c)

/-- The entry transition of an envelope operation: on a refusal the command responds at once and nothing is driven
(R163, R167, R172). -/
def entryTransition (q : ProtoState) (next : Label) (s : State) : State :=
  withCtx s fun c =>
    let r := transition q c
    if r.1 = .ok then goto next (setCtx r.2 s) else respond r.1 (cmdHandle s) s

/-- The handle check at the head of an envelope operation (R175). -/
def handleCheck (next : Label) (s : State) : State :=
  if handleOk (cmdHandle s) s then goto next s else respond .badHandle (cmdHandle s) s

end Sys2Proof.Machine
end

