-- ==== Sys2Proof/Machine/Envelope.lean ====
section
/-! DEFINITION. The micro-steps of StartXmit, Write and StopXmit (44_envelope.md). -/

namespace Sys2Proof.Machine

/-- `S0`: the handle check (R160, R175). -/
def microS0 (s : State) : State := handleCheck .s1 s

/-- `S1`: `Transition(Start)` (R160, R163). -/
def microS1 (s : State) : State := entryTransition .start .s2 s

/-- `S2`: the data line low (R160, R161). -/
def microS2 (s : State) : State :=
  withCtx s fun c => goto .s3 (lineWrite c.dataLine false s)

/-- `S3`: the hold time before start (R160, R161). -/
def microS3 (s : State) : State := goto .s4 (delay .tHdSta s)

/-- `S4`: the clock line low (R160, R161). -/
def microS4 (s : State) : State :=
  withCtx s fun c => goto .s5 (lineWrite c.clockLine false s)

/-- `S5`: SendByte of the address byte (R160, R162). -/
def microS5 (s : State) : State :=
  withCtx s fun c => enterSendByte (wireAddress c.addrS) .s6 s

/-- `S6`: respond with SendByte's answer (R160). -/
def microS6 (s : State) : State := respond s.result (cmdHandle s) s

/-- `W0`: the handle check (R165, R175). -/
def microW0 (s : State) : State := handleCheck .w1 s

/-- `W1`: `Transition(Write)` (R165, R167). -/
def microW1 (s : State) : State := entryTransition .write .w2 s

/-- `W2`: SendByte of the command's byte (R165). -/
def microW2 (s : State) : State := enterSendByte (cmdByte s) .w3 s

/-- `W3`: `Transition(Stop)`; its answer is not used (R165, R166, D18). -/
def microW3 (s : State) : State :=
  withCtx s fun c => goto .w4 (setCtx (transition .stop c).2 s)

/-- `W4`: respond with SendByte's answer (R165, R166). -/
def microW4 (s : State) : State := respond s.result (cmdHandle s) s

/-- `P0`: the handle check (R170, R175). -/
def microP0 (s : State) : State := handleCheck .p1 s

/-- `P1`: `Transition(Ready)` (R170, R172). -/
def microP1 (s : State) : State := entryTransition .ready .p2 s

/-- `P2`: the clock line high (R170, R171). -/
def microP2 (s : State) : State :=
  withCtx s fun c => goto .p3 (lineWrite c.clockLine true s)

/-- `P3`: the setup time before stop (R170, R171). -/
def microP3 (s : State) : State := goto .p4 (delay .tSuSto s)

/-- `P4`: the data line high (R170, R171). -/
def microP4 (s : State) : State :=
  withCtx s fun c => goto .p5 (lineWrite c.dataLine true s)

/-- `P5`: the bus-free interval (R170, R171, R239). -/
def microP5 (s : State) : State := goto .p6 (delay .tBuf s)

/-- `P6`: success (R170). -/
def microP6 (s : State) : State := respond .ok (cmdHandle s) s

end Sys2Proof.Machine
end

