-- ==== Sys2Proof/Machine/Handler.lean ====
section
/-! DEFINITION. The ACK Interrupt Handler (43_ack_interrupt_handler.md) and what can happen at a boundary between two
foreground micro-steps (60_exceptions.md section 2). -/

namespace Sys2Proof.Machine

/-- `AckIrq`, one atomic step: clear the pending condition, then, if and only if the state is `AckWait`, move it to
`Write` and increment the counter (R151). Entry saves nothing and return restores nothing (R196, R197). -/
def ackIrq (s : State) : State :=
  withCtx { s with irqPending := false } fun c =>
    if c.state = .ackWait then
      logEvent (.irq .taken)
        (setCtx { c with state := .write, ackEventCount := c.ackEventCount + 1 } { s with irqPending := false })
    else logEvent (.irq .ignored) { s with irqPending := false }

/-- The handler runs if it is enabled (R193). -/
def serveIfEnabled (s : State) : State :=
  if handlerEnabled s then ackIrq s else s

/-- One move of an agent other than the foreground (R60). -/
def applyMove (m : Move) (s : State) : State :=
  match m with
  | .edge => raiseEdge s
  | .serve => serveIfEnabled s

/-- The service discipline before the next foreground micro-step: under `prompt` an enabled handler runs first (R193),
under `lazy` the foreground is not held (R199). -/
def servicePending (s : State) : State :=
  match s.cfg.irqService with
  | .prompt => serveIfEnabled s
  | .lazy => s

/-- Do a list of moves, the first one first. -/
def applyMoves (ms : List Move) (s : State) : State :=
  ms.foldl (fun t m => applyMove m t) s

/-- The boundary before a foreground micro-step, or at `Idle`: the environment and the handler make the moves of the
script's next entry, then the service discipline applies (R60, R191, R193, R199). -/
def boundary (s : State) : State :=
  servicePending (applyMoves (s.env.moves.headD [])
    { s with env := { s.env with moves := s.env.moves.tail } })

end Sys2Proof.Machine
end

