-- ==== Sys2Proof/Machine/Lifecycle.lean ====
section
/-! DEFINITION. The micro-steps of Initialize and FreeContext (40_lifecycle.md), and of the illegal command (R76). -/

namespace Sys2Proof.Machine

/-- `I0`: the output-handle slot (R101). -/
def microI0 (s : State) : State :=
  if cmdSlotOk s then goto .i1 s else respond .invalidSlot 0#16 s

/-- `I1`: both lines are valid (R101). -/
def microI1 (s : State) : State :=
  if validLine s.cfg (cmdClockLine s) && validLine s.cfg (cmdDataLine s) then goto .i2 s
  else respond .invalidLine 0#16 s

/-- `I2`: the address contract, reserved tested before too large (R101, R102). -/
def microI2 (s : State) : State :=
  if reservedAddress (shiftedAddress (cmdPeerAddress s)) then respond .reservedAddr 0#16 s
  else if addressTooLarge (shiftedAddress (cmdPeerAddress s)) then respond .addrTooLarge 0#16 s
  else goto .i3 s

/-- `I3`: the slot is free, then `LineCfg` (R101, R107). -/
def microI3 (s : State) : State :=
  if ctxValid s then respond .alloc 0#16 s
  else
    let a := lineCfg (cmdClockLine s) (cmdDataLine s) s
    match a.1 with
    | .ok => goto .i4 a.2
    | .fail => respond .lineConfig 0#16 a.2

/-- `I4`: the data line high, first (R101, R104). -/
def microI4 (s : State) : State :=
  goto .i5 (lineWrite (cmdDataLine s) true s)

/-- `I5`: then the clock line high (R101, R104). -/
def microI5 (s : State) : State :=
  goto .i6 (lineWrite (cmdClockLine s) true s)

/-- The context that `I6` constructs with the tag `t` (R105). -/
def freshContext (t : Handle) (s : State) : Context where
  addrS := storedAddress (cmdPeerAddress s)
  clockLine := cmdClockLine s
  dataLine := cmdDataLine s
  ackEnabled := cmdAck s
  state := .ready
  ackEventCount := 0
  selfTag := t

/-- `I6`: draw the tag and construct the context (R101, R105). -/
def microI6 (s : State) : State :=
  let t := drawTag s
  goto .i7 (setCtx (freshContext t.1 s) t.2)

/-- `I7`: arm the interrupt if asked for; on failure the partially constructed context is released (R101, R106). -/
def microI7 (s : State) : State :=
  withCtx s fun c =>
    if c.ackEnabled then
      let a := armIrq c.dataLine s
      match a.1 with
      | .ok => goto .i8 (setArmed a.2)
      | .fail => respond .irqArm 0#16 (releaseCtx a.2)
    else goto .i8 s

/-- `I8`: success, with the tag as the handle (R101, R79). -/
def microI8 (s : State) : State :=
  withCtx s fun c => respond .ok c.selfTag s

/-- `F0`: the null handle is a no-op success (R110, R112). -/
def microF0 (s : State) : State :=
  if cmdHandle s = 0#16 then respond .ok 0#16 s else goto .f1 s

/-- `F1`: the handle check; on failure nothing is released (R110, R111). -/
def microF1 (s : State) : State :=
  handleCheck .f2 s

/-- `F2`: disarm, drop a pending edge, release the context; the lines keep their levels (R110, R113). -/
def microF2 (s : State) : State :=
  respond .ok 0#16 (releaseCtx (disarm s))

/-- `X0`: the illegal command (R76). -/
def microX0 (s : State) : State :=
  respond .illegalCmd 0#16 s

end Sys2Proof.Machine
end

