-- ==== Sys2Proof/Machine/Transmitter.lean ====
section
/-! DEFINITION. The micro-steps of the Byte Transmitter, the internal procedure `SendByte` (42_byte_transmitter.md). -/

namespace Sys2Proof.Machine

/-- `B0`: the bit on the data line while the clock is low (R131, R132). -/
def microB0 (s : State) : State :=
  withCtx s fun c => goto .b1 (lineWrite c.dataLine (txBit s) s)

/-- `B1`: the clock pulse, high (R131). -/
def microB1 (s : State) : State :=
  withCtx s fun c => goto .b2 (lineWrite c.clockLine true s)

/-- `B2`: the clock pulse, low; the next bit, or the acknowledge phase after bit 0 (R131, R132). -/
def microB2 (s : State) : State :=
  withCtx s fun c =>
    let t := lineWrite c.clockLine false s
    if s.bitidx = 0 then goto .a0 t else goto .b0 (setBitidx (s.bitidx - 1) t)

/-- `A0`: `Transition(AckWait)`; on a refusal SendByte returns it without the ninth clock (R131, R134, D29). -/
def microA0 (s : State) : State :=
  withCtx s fun c =>
    let r := transition .ackWait c
    if r.1 = .ok then goto .a1 (setCtx r.2 s)
    else goto (returnLabel s.ret) (setResult r.1 s)

/-- `A1`: release the data line high (R131, R135). -/
def microA1 (s : State) : State :=
  withCtx s fun c => goto .a2 (lineWrite c.dataLine true s)

/-- `A2`: the ninth clock pulse, high (R131, R135). -/
def microA2 (s : State) : State :=
  withCtx s fun c => goto .a3 (lineWrite c.clockLine true s)

/-- `A3`: the ninth clock pulse, low (R131, R135). -/
def microA3 (s : State) : State :=
  withCtx s fun c => goto .a4 (lineWrite c.clockLine false s)

/-- `A4`: pull the data line low again (R131, R135). -/
def microA4 (s : State) : State :=
  withCtx s fun c => goto .a5 (lineWrite c.dataLine false s)

/-- `A5`: the settle interval (R131, R135). -/
def microA5 (s : State) : State :=
  goto .a6 (delay .tAckSettle s)

/-- `A6`: the sample (R131, R136). -/
def microA6 (s : State) : State :=
  withCtx s fun c => goto .a7 (sampleAck c s)

/-- `A7`: the result from the sample, with the forced `AckWait -> Write` when it was negative; return (R131, R136). -/
def microA7 (s : State) : State :=
  withCtx s fun c =>
    if s.acked then goto (returnLabel s.ret) (setResult .ok s)
    else goto (returnLabel s.ret) (setResult .nack (setCtx { c with state := .write } s))

end Sys2Proof.Machine
end

