-- ==== Sys2Proof/Machine/Sequencer.lean ====
section
/-! DEFINITION. The foreground sequencer (R34, R60): one micro-step, the interleaving of micro-steps with the other
agents, and a whole command. -/

namespace Sys2Proof.Machine

/-- One micro-step of the foreground, the one that `upc` names; at `Idle` there is none (R34). -/
def fgStep (s : State) : State :=
  match s.upc with
  | .idle => s
  | .i0 => microI0 s
  | .i1 => microI1 s
  | .i2 => microI2 s
  | .i3 => microI3 s
  | .i4 => microI4 s
  | .i5 => microI5 s
  | .i6 => microI6 s
  | .i7 => microI7 s
  | .i8 => microI8 s
  | .f0 => microF0 s
  | .f1 => microF1 s
  | .f2 => microF2 s
  | .s0 => microS0 s
  | .s1 => microS1 s
  | .s2 => microS2 s
  | .s3 => microS3 s
  | .s4 => microS4 s
  | .s5 => microS5 s
  | .s6 => microS6 s
  | .w0 => microW0 s
  | .w1 => microW1 s
  | .w2 => microW2 s
  | .w3 => microW3 s
  | .w4 => microW4 s
  | .p0 => microP0 s
  | .p1 => microP1 s
  | .p2 => microP2 s
  | .p3 => microP3 s
  | .p4 => microP4 s
  | .p5 => microP5 s
  | .p6 => microP6 s
  | .x0 => microX0 s
  | .b0 => microB0 s
  | .b1 => microB1 s
  | .b2 => microB2 s
  | .a0 => microA0 s
  | .a1 => microA1 s
  | .a2 => microA2 s
  | .a3 => microA3 s
  | .a4 => microA4 s
  | .a5 => microA5 s
  | .a6 => microA6 s
  | .a7 => microA7 s

/-- The boundary and then the micro-step; nothing at `Idle` (R60). -/
def tick (s : State) : State :=
  match s.upc with
  | .idle => s
  | _ => fgStep (boundary s)

/-- At most `n` micro-steps, ending early at `Idle`. -/
def ticks : Nat → State → State
  | 0, s => s
  | n + 1, s => ticks n (tick s)

/-- The longest command: 39 micro-steps (R227). -/
def maxMicroSteps : Nat := 39

/-- Run the command in progress to its response: "no operation is cancellable mid-flight" (R130, R183). At `Idle`
there is none. -/
def finish (s : State) : State := ticks maxMicroSteps s

/-- The label belongs to a part of a micro-program in which the context is still to be read. -/
def needsContext (l : Label) : Bool :=
  match l with
  | .i7 | .i8 | .s1 | .s2 | .s3 | .s4 | .s5 | .w1 | .w2 | .w3 | .p1 | .p2 | .p3 | .p4
  | .b0 | .b1 | .b2 | .a0 | .a1 | .a2 | .a3 | .a4 | .a5 | .a6 | .a7 => true
  | .idle | .i0 | .i1 | .i2 | .i3 | .i4 | .i5 | .i6 | .f0 | .f1 | .f2 | .s0 | .s6 | .w0 | .w4
  | .p0 | .p5 | .p6 | .x0 => false

/-- A micro-program that reads the context is under way and the slot is empty: no field of `ctx` holds a value (R20)
and the next step is not defined (log entry 9). -/
def lostContext (s : State) : Bool :=
  needsContext s.upc && !ctxValid s

/-- Present the command word `w` and run it: it is accepted when the command in progress, if there is one, has
responded (R70, U18, log entry 10), and then runs to its own response, starting at the label `first` (R74). -/
def runCommand (w : Word) (first : Label) (s : State) : Host.Outcome State Fault Refusal :=
  if lostContext s then .fault .emptySlot
  else .next (finish (accept w first (finish s)))

/-- An idle turn of the host: the command in progress, if there is one, responds, and the environment and the handler
act at `Idle` (R60, R196, R226). -/
def idleTurn (s : State) : Host.Outcome State Fault Refusal :=
  if lostContext s then .fault .emptySlot
  else .next (boundary (finish s))

end Sys2Proof.Machine
end

