-- ==== Sys2Proof/Machine/Commands.lean ====
section
/-! DEFINITION. The meanings of the five commands (R101, R110, R160, R165, R170) and of an illegal word (R76): each is
its micro-program, run from the first label that the opcode map gives (R74). -/

namespace Sys2Proof.Machine

/-- `INIT`: the micro-program `I0..I8` (R101). -/
def execInit (ack slotOk : Bool) (peerAddress : Byte) (clockLine dataLine : LineId) (s : State) :
    Host.Outcome State Fault Refusal :=
  runCommand (encode (.init ack slotOk peerAddress clockLine dataLine)) .i0 s

/-- `START`: the micro-program `S0..S6` with SendByte of the address byte (R160). -/
def execStart (handle : Handle) (s : State) : Host.Outcome State Fault Refusal :=
  runCommand (encode (.start handle)) .s0 s

/-- `WRITE`: the micro-program `W0..W4` with SendByte of the byte (R165). -/
def execWrite (byte : Byte) (handle : Handle) (s : State) : Host.Outcome State Fault Refusal :=
  runCommand (encode (.write byte handle)) .w0 s

/-- `STOP`: the micro-program `P0..P6` (R170). -/
def execStop (handle : Handle) (s : State) : Host.Outcome State Fault Refusal :=
  runCommand (encode (.stop handle)) .p0 s

/-- `FREE`: the micro-program `F0..F2` (R110). -/
def execFree (handle : Handle) (s : State) : Host.Outcome State Fault Refusal :=
  runCommand (encode (.free handle)) .f0 s

/-- An illegal command word: the micro-program `X0` (R76). -/
def execIllegal (w : Word) (s : State) : Host.Outcome State Fault Refusal :=
  runCommand w .x0 s

end Sys2Proof.Machine
end

