-- ==== Sys2Proof/Machine/Dispatch.lean ====
section
/-! DEFINITION. The meaning of each command: one arm per constructor of Instr. -/

namespace Sys2Proof.Machine

/-- The command's meaning. -/
def exec (i : Instr) (s : State) : Host.Outcome State Fault Refusal :=
  match i with
  | .init ack slotOk peerAddress clockLine dataLine => Sys2Proof.Machine.execInit ack slotOk peerAddress clockLine dataLine s
  | .start handle => Sys2Proof.Machine.execStart handle s
  | .write byte handle => Sys2Proof.Machine.execWrite byte handle s
  | .stop handle => Sys2Proof.Machine.execStop handle s
  | .free handle => Sys2Proof.Machine.execFree handle s

end Sys2Proof.Machine
end

