-- ==== Sys2Proof/Machine/Step.lean ====
section
/-! DEFINITION. One step of the machine: one turn of the host (log entry 1). -/

namespace Sys2Proof.Machine

/-- One step: the host's next turn. A command word is decoded (R75) and runs to its response, or runs the illegal
command (R76); an idle turn, and an exhausted list of turns, let the other agents act (R60, R70). -/
def step (s : State) : Host.Outcome State Fault Refusal :=
  match s.env.turns with
  | .command w :: _ =>
    match decode w with
    | .ok i => exec i (dropTurn s)
    | .error _ => execIllegal w (dropTurn s)
  | .idle :: _ => idleTurn (dropTurn s)
  | [] => idleTurn s

/-- The state with the command word of `nbits` bits `w` presented as the host's next turn, so that the very next step
runs it (R70, log entry 16). -/
def State.withFetchWord (s : State) (nbits w : Nat) : State :=
  presentWord (BitVec.ofNat 32 (w % 2 ^ nbits)) s

end Sys2Proof.Machine
end

