-- ==== Sys2Proof/Safety.lean ====
section
/-! DEFINITION. What claims are stated in terms of: the machine invariant, the premises on the host, the foreground's
part of the trace, the bus traces of the rules, and what the agents outside the foreground may change. -/

namespace Sys2Proof

open Sys2Proof.Machine

/-! ## The invariant -/

/-- A live context (R21, R22, R28): an accepted shifted address, two valid lines, a non-zero tag. -/
def contextWf (cfg : Config) (c : Context) : Bool :=
  decide (0x10 ≤ c.addrS.toNat) && decide (c.addrS.toNat ≤ 0x7E) && !c.addrS.getLsbD 0 &&
    validLine cfg c.clockLine && validLine cfg c.dataLine && c.selfTag != 0

/-- The two line shadows. -/
def shadows (s : State) : Option Level × Option Level := (s.sdaDrv, s.sclDrv)

/-- The boundary states of R43 and R44: `Ready` with both lines high, `Write` or `Stop` with both lines low. -/
def atRest (c : Context) (s : State) : Bool :=
  match c.state with
  | .ready => shadows s == (some true, some true)
  | .write => shadows s == (some false, some false)
  | .stop => shadows s == (some false, some false)
  | .start => false
  | .ackWait => false

/-- The slot is empty, or it holds a context at rest. -/
def restOrEmpty (s : State) : Bool :=
  match s.ctx with
  | some c => atRest c s
  | none => true

/-- The slot holds a context and `p` holds of it. -/
def ctxIs (p : Context → Bool) (s : State) : Bool :=
  match s.ctx with
  | some c => p c
  | none => false

/-- The protocol state in which SendByte is entered, by its return label (R133): `Start` from StartXmit, `Write` from
Write. -/
def entryState (r : ReturnLabel) : ProtoState :=
  match r with
  | .s6 => .start
  | .w3 => .write

/-- The state is `AckWait`, or the handler has moved it to `Write`. -/
def inAckPhase (c : Context) : Bool :=
  c.state == .ackWait || c.state == .write

/-- The command's lines are valid (after `I1`). -/
def cmdLinesValid (s : State) : Bool :=
  validLine s.cfg (cmdClockLine s) && validLine s.cfg (cmdDataLine s)

/-- The command's address is accepted (after `I2`). -/
def cmdAddressAccepted (s : State) : Bool :=
  addressAccepted (shiftedAddress (cmdPeerAddress s))

/-- What holds at each micro-step label (R43, R44, R133, R137, R161, R171): the part of the invariant that follows the
micro-programs. -/
def labelInv (s : State) : Bool :=
  match s.upc with
  | .idle | .i0 | .i1 | .f0 | .f1 | .s0 | .w0 | .p0 | .x0 | .s6 | .w4 | .p6 => restOrEmpty s
  | .i2 => restOrEmpty s && cmdLinesValid s
  | .i3 => restOrEmpty s && cmdLinesValid s && cmdAddressAccepted s
  | .i4 => !ctxValid s && cmdLinesValid s && cmdAddressAccepted s
  | .i5 => !ctxValid s && cmdLinesValid s && cmdAddressAccepted s && s.sdaDrv == some true
  | .i6 => !ctxValid s && cmdLinesValid s && cmdAddressAccepted s && shadows s == (some true, some true)
  | .i7 | .i8 => ctxIs (fun c => c.state == .ready && atRest c s) s
  | .f2 => handleOk (cmdHandle s) s && restOrEmpty s
  | .s1 | .w1 | .p1 => ctxIs (fun c => atRest c s) s
  | .s2 => ctxIs (fun c => c.state == .start && shadows s == (some true, some true)) s
  | .s3 | .s4 => ctxIs (fun c => c.state == .start) s && s.sdaDrv == some false
  | .s5 => ctxIs (fun c => c.state == .start) s && s.sclDrv == some false
  | .w2 => ctxIs (fun c => c.state == .write) s && s.sclDrv == some false
  | .w3 => ctxIs (fun c => c.state == .write && atRest c s) s
  | .p2 => ctxIs (fun c => c.state == .ready) s
  | .p3 | .p4 => ctxIs (fun c => c.state == .ready) s && s.sclDrv == some true
  | .p5 => ctxIs (fun c => c.state == .ready && atRest c s) s
  | .b0 => ctxIs (fun c => c.state == entryState s.ret) s && s.sclDrv == some false
  | .b1 | .b2 => ctxIs (fun c => c.state == entryState s.ret) s
  | .a0 => ctxIs (fun c => c.state == entryState s.ret) s && s.sclDrv == some false && s.bitidx == 0
  | .a1 => ctxIs inAckPhase s && s.sclDrv == some false && s.bitidx == 0
  | .a2 | .a3 => ctxIs inAckPhase s && s.bitidx == 0
  | .a4 => ctxIs inAckPhase s && s.sclDrv == some false && s.bitidx == 0
  | .a5 | .a6 => ctxIs inAckPhase s && shadows s == (some false, some false) && s.bitidx == 0
  | .a7 => ctxIs (fun c => c.state == .write || (c.state == .ackWait && !s.acked)) s &&
      shadows s == (some false, some false) && s.bitidx == 0

/-- `armed` follows the live context (R30): without one it is 0; with one it is `ackEnabled`, but for `I7`, where it
is not yet written. -/
def armedInv (s : State) : Bool :=
  match s.ctx with
  | none => !s.armed
  | some c => if s.upc = .i7 then !s.armed else s.armed == c.ackEnabled

/-- `irq_pending` is 1 only while `armed` is 1 (R191, R194), and under prompt service never between two steps (R193). -/
def pendingInv (s : State) : Bool :=
  !s.irqPending || (s.armed && s.cfg.irqService == .lazy)

/-- The invariant of the machine. -/
def inv (s : State) : Bool :=
  (match s.ctx with
    | some c => contextWf s.cfg c
    | none => true) &&
  armedInv s && pendingInv s && labelInv s

/-- The turn presents a command word. -/
def presentsWord (t : HostTurn) : Bool :=
  match t with
  | .command _ => true
  | .idle => false

/-- A run has ended (R226): the last command has responded, the host presents no further word, and no handler run is
owed. Idle turns may still follow, and edges with them: a later edge at `Idle` is served and ignored. -/
def runEnded (s : State) : Bool :=
  s.upc == .idle && !s.env.turns.any presentsWord && (!s.irqPending || !s.armed)

/-! ## Premises -/

/-- The premise `HostWellFormed` that U1 and U4 ask a model to offer, for the command `i` presented in `s`: the two
lines of `INIT` differ, and `START`, `WRITE` and `STOP` pass `HandleOk`. It is a premise for claims about the original
software; the step needs none. -/
def hostWellFormed (i : Instr) (s : State) : Bool :=
  match i with
  | .init _ _ _ clockLine dataLine => clockLine != dataLine
  | .start h => handleOk h s
  | .write _ h => handleOk h s
  | .stop h => handleOk h s
  | .free _ => true

/-- The environment raises no edge at any boundary still to come, and none is pending: the silent peer of Scenario C. -/
def silent (s : State) : Bool :=
  !s.irqPending && s.env.moves.all fun ms => !ms.contains .edge

/-- The environment raises an edge at the `n`-th boundary from now, counted from 0. -/
def edgeAt (s : State) (n : Nat) : Bool :=
  (s.env.moves.getD n []).contains .edge

/-- The environment raises an edge at one of the `len` boundaries that begin with the `first`-th from now. -/
def edgeWithin (s : State) (first len : Nat) : Bool :=
  (List.range len).any fun k => edgeAt s (first + k)

/-- The first check of `INIT` that fails, in the order `I0`, `I1`, `I2`, `I3` (R103), with the number of micro-steps
made when it does: the slot, the lines, the reserved addresses, the too large ones, the occupied slot (R101, R107). -/
def initRefusal (slotOk : Bool) (peerAddress : Byte) (clockLine dataLine : LineId) (s : State) : Option (Status × Nat) :=
  if slotOk = false then some (.invalidSlot, 1)
  else if (validLine s.cfg clockLine && validLine s.cfg dataLine) = false then some (.invalidLine, 2)
  else if reservedAddress (shiftedAddress peerAddress) then some (.reservedAddr, 3)
  else if addressTooLarge (shiftedAddress peerAddress) then some (.addrTooLarge, 3)
  else if ctxValid s then some (.alloc, 4)
  else none

/-- The first label of a command's micro-program (R74). -/
def firstLabel (i : Instr) : Label :=
  match i with
  | .init _ _ _ _ _ => .i0
  | .start _ => .s0
  | .write _ _ => .w0
  | .stop _ => .p0
  | .free _ => .f0

/-- The most micro-steps a command takes (R227). -/
def commandBound (i : Instr) : Nat :=
  match i with
  | .init _ _ _ _ _ => 9
  | .start _ => 39
  | .write _ _ => 37
  | .stop _ => 7
  | .free _ => 3

/-! ## Traces -/

/-- The event is the foreground's or the host's: neither an edge nor a handler run. -/
def foregroundEvent (e : Event) : Bool :=
  match e with
  | .edge => false
  | .irq _ => false
  | .cfg _ _ _ => true
  | .lineWrite _ _ => true
  | .delay _ => true
  | .arm _ _ => true
  | .disarm => true
  | .cmd _ => true
  | .resp _ _ => true

/-- The foreground's part of the trace, in order: the trace without edges and handler runs. -/
def fgTrace (s : State) : List Event := s.trace.filter foregroundEvent

/-- The events of one data bit (R131, steps `B0 B1 B2`). -/
def bitEvents (clk dat : LineId) (v : Level) : List Event :=
  [.lineWrite dat v, .lineWrite clk true, .lineWrite clk false]

/-- The eight levels of a byte in the order of the wire, most significant bit first (R54). -/
def msbFirst (b : Byte) : List Level :=
  [b.getLsbD 7, b.getLsbD 6, b.getLsbD 5, b.getLsbD 4, b.getLsbD 3, b.getLsbD 2, b.getLsbD 1, b.getLsbD 0]

/-- The events of the acknowledge phase (R131, steps `A1` to `A5`). -/
def ackEvents (clk dat : LineId) : List Event :=
  [.lineWrite dat true, .lineWrite clk true, .lineWrite clk false, .lineWrite dat false, .delay .tAckSettle]

/-- The foreground's events of `SendByte(b)` (R131). -/
def sendByteEvents (clk dat : LineId) (b : Byte) : List Event :=
  (msbFirst b).flatMap (bitEvents clk dat) ++ ackEvents clk dat

/-- The events of the Start condition (R160, steps `S2` to `S4`). -/
def startEvents (clk dat : LineId) : List Event :=
  [.lineWrite dat false, .delay .tHdSta, .lineWrite clk false]

/-- The events of the Stop condition (R170, steps `P2` to `P5`). -/
def stopEvents (clk dat : LineId) : List Event :=
  [.lineWrite clk true, .delay .tSuSto, .lineWrite dat true, .delay .tBuf]

/-- `WireBits(t)` (R58): the data line's level at each `SCL=1` event of the trace `t`, the level before `t` being
`sda`. -/
def wireBits (clk dat : LineId) (sda : Level) (t : List Event) : List Level :=
  match t with
  | [] => []
  | .lineWrite id v :: rest =>
    if id = dat then wireBits clk dat v rest
    else if id = clk ∧ v = true then sda :: wireBits clk dat sda rest
    else wireBits clk dat sda rest
  | _ :: rest => wireBits clk dat sda rest

/-- The event is a line write (R141). -/
def isLineWrite (e : Event) : Bool :=
  match e with
  | .lineWrite _ _ => true
  | .cfg _ _ _ => false
  | .delay _ => false
  | .arm _ _ => false
  | .disarm => false
  | .edge => false
  | .irq _ => false
  | .cmd _ => false
  | .resp _ _ => false

/-! ## Frames -/

/-- The handler's effect on the shared data of the context, if it ran effectively: nothing, or `AckWait` to `Write` with
the counter one higher (R42, R153). -/
def handlerMayChange (c c' : Context) : Prop :=
  c' = c ∨ (c.state = .ackWait ∧ c' = { c with state := .write, ackEventCount := c.ackEventCount + 1 })

/-- What the environment and the handler may change between two foreground micro-steps (R42, third and fourth column):
`irq_pending`, the shared data of the context, the trace by edges and handler runs, and the script of moves. -/
structure EnvironmentChange (s t : State) : Prop where
  cfg        : t.cfg = s.cfg
  ctx        : (s.ctx = none ∧ t.ctx = none) ∨
               ∃ c c', s.ctx = some c ∧ t.ctx = some c' ∧ handlerMayChange c c'
  armed      : t.armed = s.armed
  sdaDrv     : t.sdaDrv = s.sdaDrv
  sclDrv     : t.sclDrv = s.sclDrv
  upc        : t.upc = s.upc
  txbyte     : t.txbyte = s.txbyte
  bitidx     : t.bitidx = s.bitidx
  ret        : t.ret = s.ret
  acked      : t.acked = s.acked
  result     : t.result = s.result
  cmd        : t.cmd = s.cmd
  resp       : t.resp = s.resp
  trace      : fgTrace t = fgTrace s
  turns      : t.env.turns = s.env.turns
  cfgAnswers : t.env.cfgAnswers = s.env.cfgAnswers
  armAnswers : t.env.armAnswers = s.env.armAnswers
  tagDraws   : t.env.tagDraws = s.env.tagDraws
  draws      : t.env.draws = s.env.draws

/-- What a command that is refused without effect leaves alone (R182): every register but `cmd`, `resp` and `upc`. The
pending bit is the environment's to change at any moment (R191), so it is not here. -/
structure RefusedFrame (s t : State) : Prop where
  cfg     : t.cfg = s.cfg
  ctx     : t.ctx = s.ctx
  armed   : t.armed = s.armed
  sdaDrv  : t.sdaDrv = s.sdaDrv
  sclDrv  : t.sclDrv = s.sclDrv
  upc     : t.upc = .idle
  txbyte  : t.txbyte = s.txbyte
  bitidx  : t.bitidx = s.bitidx
  ret     : t.ret = s.ret
  acked   : t.acked = s.acked
  result  : t.result = s.result

/-- What a command that drives the lines leaves alone (R42): the configuration, `armed`, and every field of the context
but the protocol state and the counter; and it ends at `Idle`. -/
structure DriveFrame (c c' : Context) (s t : State) : Prop where
  cfg        : t.cfg = s.cfg
  armed      : t.armed = s.armed
  addrS      : c'.addrS = c.addrS
  clockLine  : c'.clockLine = c.clockLine
  dataLine   : c'.dataLine = c.dataLine
  ackEnabled : c'.ackEnabled = c.ackEnabled
  selfTag    : c'.selfTag = c.selfTag
  upc        : t.upc = .idle

/-- The inputs after `n` micro-steps that asked the environment nothing: `n` boundaries of the script are used. -/
def afterMoves (n : Nat) (e : Env) : Env :=
  { e with moves := e.moves.drop n }

/-- The answer of an outcome, changed by `f` where it is a next state. -/
def mapNext (f : State → State) (o : Host.Outcome State Fault Refusal) : Host.Outcome State Fault Refusal :=
  match o with
  | .next s => .next (f s)
  | .fault r => .fault r
  | .refused r => .refused r

/-- `n` steps: the next state after them, or the fault or refusal of the first step that stops. -/
def steps : Nat → State → Host.Outcome State Fault Refusal
  | 0, s => .next s
  | n + 1, s =>
    match step s with
    | .next t => steps n t
    | .fault r => .fault r
    | .refused r => .refused r

/-- The state with the counter of the live context raised by `k`, if there is one. -/
def addCount (k : Nat) (s : State) : State :=
  { s with ctx := s.ctx.map fun c => { c with ackEventCount := c.ackEventCount + k } }

/-- The state under lazy service with the script of moves `ms`. -/
def underLazy (ms : List (List Move)) (s : State) : State :=
  { s with cfg := { s.cfg with irqService := .lazy }, env := { s.env with moves := ms } }

end Sys2Proof
end

