-- ==== Sys2Proof/WellFormed.lean ====
section
/-! DEFINITION. Which command words and which instruction terms are well formed (R71 to R76). -/

namespace Sys2Proof

/-- The opcode field is one of the five of the opcode map (R74). -/
def legalOp (w : Word) : Bool :=
  let op := (w.extractLsb' 28 4).toNat
  decide (1 ≤ op) && decide (op ≤ 5)

/-- The reserved bits of the format that the opcode selects are zero: bits 25:24 of format I (R71), 27:24 of format W
(R73), 27:16 of format H (R72). -/
def reservedBitsZero (w : Word) : Bool :=
  match (w.extractLsb' 28 4).toNat with
  | 1 => w.extractLsb' 24 2 == 0#2
  | 3 => w.extractLsb' 24 4 == 0#4
  | _ => w.extractLsb' 16 12 == 0#12

/-- A command word is well formed when it is not illegal in the sense of R76. -/
def wordWellFormed (w : Word) : Bool :=
  legalOp w && reservedBitsZero w

/-- An instruction term is well formed when each operand fits its field. Every operand is typed by the exact width of
its field (R71 to R73: a Boolean for one bit, 8 bits for an address, a line or a byte, 16 bits for a handle) and the
formats exclude no value of a field, so every term is well formed; ill-formedness exists at the level of words only
(`wordWellFormed`). -/
def Instr.wellFormed (i : Instr) : Bool :=
  match i with
  | .init _ _ _ _ _ => true
  | .start _ => true
  | .write _ _ => true
  | .stop _ => true
  | .free _ => true

end Sys2Proof
end

