-- ==== Sys2Proof/Certificates/Slice0/Obligations.lean ====
section
/-! DEFINITION. The statements for the provers: what the rules of spec/ say the machine does. -/

open Sys2Proof Sys2Proof.Machine

/-! ## Encoding -/

/-- R71 to R76: words written out bit by bit from the formats decode to the commands they stand for, and words with a
reserved opcode or a reserved bit are refused by name. -/
def Obligations.WordsDecodeAsTheFormatsSay : Prop :=
  decode 0b0001_1_1_00_00111100_00000100_00000101#32 = .ok (.init true true 0x3C#8 4#8 5#8) ∧
  decode 0b0001_0_1_00_00111100_00000100_00000101#32 = .ok (.init false true 0x3C#8 4#8 5#8) ∧
  decode 0b0010_000000000000_0000000000000001#32 = .ok (.start 1#16) ∧
  decode 0b0011_0000_10100101_0000000000000001#32 = .ok (.write 0xA5#8 1#16) ∧
  decode 0b0100_000000000000_0000000000000001#32 = .ok (.stop 1#16) ∧
  decode 0b0101_000000000000_0000000000000001#32 = .ok (.free 1#16) ∧
  decode 0b0000_000000000000_0000000000000000#32 = .error .reservedOp ∧
  decode 0b0110_000000000000_0000000000000000#32 = .error .reservedOp ∧
  decode 0b0001_1_1_01_00111100_00000100_00000101#32 = .error .reservedBits ∧
  decode 0b0010_000000000001_0000000000000001#32 = .error .reservedBits

/-- Decoding the word of a well-formed instruction gives the instruction back, every operand at every value. -/
def Obligations.DecodeOfEncodeIsTheInstruction : Prop :=
  ∀ i : Instr, i.wellFormed = true → decode (encode i) = .ok i

/-- Each legal word has one meaning and each command one word: encoding what a word decodes to gives the word back. -/
def Obligations.EncodeOfDecodeIsTheWord : Prop :=
  ∀ (w : Word) (i : Instr), decode w = .ok i → encode i = w

/-- R75, R76: the decoder accepts exactly the words whose opcode is 1 to 5 and whose reserved bits are zero. -/
def Obligations.DecoderAcceptsExactlyTheLegalWords : Prop :=
  ∀ w : Word, (∃ i : Instr, decode w = .ok i) ↔ wordWellFormed w = true

/-- R75: no word selects two rows of the decoding table. -/
def Obligations.DecodingRowsAreDisjoint : Prop :=
  ∀ w : Word, opcodeRows.Pairwise fun a b => ¬ (rowSelected a w = true ∧ rowSelected b w = true)

/-! ## Reset and the invariant -/

/-- R220: after reset the slot is empty, nothing is armed or pending, the sequencer is idle, the context fields and both
line shadows are without a value. -/
def Obligations.ResetLeavesTheSlotEmptyAndTheSequencerIdle : Prop :=
  ctxValid State.reset = false ∧ State.reset.ctx = none ∧ State.reset.armed = false ∧
  State.reset.irqPending = false ∧ State.reset.upc = .idle ∧ State.reset.sdaDrv = none ∧ State.reset.sclDrv = none ∧
  busyO State.reset = false ∧ stateO State.reset = none ∧ ackCountO State.reset = none

/-- The invariant holds after reset. -/
def Obligations.InvariantHoldsAtReset : Prop := inv State.reset = true

/-- Every step keeps the invariant. -/
def Obligations.EveryStepKeepsTheInvariant : Prop :=
  ∀ s t : State, inv s = true → step s = .next t → inv t = true

/-- R43, R44: after a step, a live context is in `Ready` with both lines written high, or in `Write` or `Stop` with both
written low. -/
def Obligations.CommandsLeaveTheContextAtRest : Prop :=
  ∀ (s t : State) (c : Context), inv s = true → step s = .next t → t.ctx = some c →
    t.upc = .idle ∧
    ((c.state = .ready ∧ t.sdaDrv = some true ∧ t.sclDrv = some true) ∨
     ((c.state = .write ∨ c.state = .stop) ∧ t.sdaDrv = some false ∧ t.sclDrv = some false))

/-- R180: the block never traps. Outside the states in which a micro-program has lost its context, a step answers a next
state, idle again and under the same configuration. -/
def Obligations.EveryStepEndsIdle : Prop :=
  ∀ s : State, lostContext s = false → ∃ t : State, step s = .next t ∧ t.upc = .idle ∧ t.cfg = s.cfg

/-- The model's choice of log entry 9: a step, and any command, stops with the fault `emptySlot` if and only if a
micro-program has lost its context; and no state that meets the invariant is such a state. -/
def Obligations.EmptySlotFaultsOnlyWhereNoRunGoes : Prop :=
  (∀ s : State, step s = .fault .emptySlot ↔ lostContext s = true) ∧
  (∀ (i : Instr) (s : State), exec i s = .fault .emptySlot ↔ lostContext s = true) ∧
  ∀ s : State, inv s = true → lostContext s = false

/-! ## The step -/

/-- R70, R75: when the host's next turn presents a word that decodes to a well-formed command, the step is the command's
meaning, the turn taken off the list. -/
def Obligations.StepRunsTheDecodedCommand : Prop :=
  ∀ (s : State) (w : Word) (rest : List HostTurn) (i : Instr),
    s.env.turns = .command w :: rest → decode w = .ok i → i.wellFormed = true →
    step s = exec i { s with env := { s.env with turns := rest } }

/-- R76: an illegal word answers `E_ILLEGAL_CMD` with the handle 0, changes no register but `cmd`, `resp` and `upc`, and
writes no line. -/
def Obligations.IllegalWordHasNoOtherEffect : Prop :=
  ∀ (s : State) (w : Word) (rest : List HostTurn),
    s.upc = .idle → inv s = true → s.env.turns = .command w :: rest → wordWellFormed w = false →
    ∃ t : State, step s = .next t ∧ RefusedFrame s t ∧ t.cmd = w ∧ t.resp = responseWord .illegalCmd 0#16 ∧
      fgTrace t = fgTrace s ++ [.cmd w, .resp .illegalCmd 0#16] ∧
      t.env = afterMoves 1 { s.env with turns := rest }

/-- R60, R226: in an idle turn of the host the foreground does nothing and the live context does not change: an edge raised
at `Idle` is at most served and ignored. -/
def Obligations.IdleTurnLeavesTheContextAlone : Prop :=
  ∀ s : State,
    s.upc = .idle → inv s = true → (s.env.turns = [] ∨ ∃ rest, s.env.turns = .idle :: rest) →
    ∃ t : State, step s = .next t ∧ RefusedFrame s t ∧ t.cmd = s.cmd ∧ t.resp = s.resp ∧ fgTrace t = fgTrace s ∧
      t.env = afterMoves 1 { s.env with turns := s.env.turns.tail }

/-- R226: under prompt service a run that has ended stays ended. A further step, which can only be an idle turn, changes no
register, and an edge that arrives in it is served and ignored. -/
def Obligations.EndedRunStaysEnded : Prop :=
  ∀ s : State, inv s = true → runEnded s = true → s.cfg.irqService = .prompt →
    ∃ t : State, step s = .next t ∧ runEnded t = true ∧ RefusedFrame s t ∧ t.irqPending = s.irqPending ∧
      t.cmd = s.cmd ∧ t.resp = s.resp ∧ fgTrace t = fgTrace s ∧
      t.trace.count (.irq .taken) = s.trace.count (.irq .taken)

/-- R70, U18: a command presented while another is in progress waits for its response and then runs as from there. -/
def Obligations.BusyCommandWaits : Prop :=
  ∀ (i : Instr) (s : State), lostContext s = false →
    (finish s).upc = .idle ∧ exec i s = exec i (finish s)

/-- R227: from acceptance, `INIT` takes at most 9 micro-steps, `FREE` 3, `START` 39, `WRITE` 37, `STOP` 7, an illegal
word 1, whatever the other agents do at each boundary. -/
def Obligations.EveryCommandRespondsWithinItsBound : Prop :=
  (∀ (i : Instr) (s : State), s.upc = .idle →
    (ticks (commandBound i) (accept (encode i) (firstLabel i) s)).upc = .idle) ∧
  (∀ (w : Word) (s : State), s.upc = .idle → (ticks 1 (accept w .x0 s)).upc = .idle)

/-! ## The State Machine -/

/-- R122, R124: an identity request is accepted and writes nothing; the eight edges are taken; the twelve other pairs are
refused and leave the context unchanged. -/
def Obligations.TransitionFollowsTheGrid : Prop :=
  ∀ c : Context,
    (transition c.state c = (.ok, c)) ∧
    (∀ q : ProtoState,
      (c.state, q) ∈ [(ProtoState.ready, ProtoState.start), (.start, .ackWait), (.start, .write), (.write, .ackWait),
        (.ackWait, .write), (.write, .stop), (.stop, .ready), (.stop, .write)] →
      transition q c = (.ok, { c with state := q })) ∧
    (∀ q : ProtoState,
      (c.state, q) ∈ [(ProtoState.ready, ProtoState.ackWait), (.ready, .write), (.ready, .stop), (.start, .ready),
        (.start, .stop), (.ackWait, .ready), (.ackWait, .start), (.ackWait, .stop), (.write, .ready),
        (.write, .start), (.stop, .start), (.stop, .ackWait)] →
      transition q c = (.invalidTransition, c))

/-! ## INIT -/

/-- R102: the address contract. On the nine-bit `S` the predicates are the contract's; on the operand, exactly
0x08..0x3F is accepted, and 0x78..0x7B is reserved rather than too large. -/
def Obligations.AddressContract : Prop :=
  (∀ S : BitVec 9,
    (reservedAddress S = true ↔ S.toNat ≤ 0x0F ∨ (0xF0 ≤ S.toNat ∧ S.toNat ≤ 0xF7) ∨
      S.toNat = 0xF9 ∨ S.toNat = 0xFB ∨ S.toNat = 0xFD ∨ S.toNat = 0xFF) ∧
    (addressTooLarge S = true ↔ reservedAddress S = false ∧ 0x7F < S.toNat) ∧
    (addressAccepted S = true ↔ reservedAddress S = false ∧ S.toNat ≤ 0x7F)) ∧
  (∀ a : Byte,
    (shiftedAddress a).toNat = 2 * a.toNat ∧
    (addressAccepted (shiftedAddress a) = true ↔ 0x08 ≤ a.toNat ∧ a.toNat ≤ 0x3F) ∧
    (0x78 ≤ a.toNat ∧ a.toNat ≤ 0x7B → reservedAddress (shiftedAddress a) = true))

/-- R101, R103, R107, R182: `INIT` ends at its first failing check of `I0` to `I3` with that check's status and the
handle 0; later checks are not made and nothing else changes, a live context included. -/
def Obligations.InitEndsAtItsFirstFailingCheck : Prop :=
  ∀ (ack slotOk : Bool) (a : Byte) (clk dat : LineId) (s : State) (st : Status) (n : Nat),
    s.upc = .idle → inv s = true → initRefusal slotOk a clk dat s = some (st, n) →
    ∃ t : State, exec (.init ack slotOk a clk dat) s = .next t ∧ RefusedFrame s t ∧
      t.cmd = encode (.init ack slotOk a clk dat) ∧ t.resp = responseWord st 0#16 ∧
      fgTrace t = fgTrace s ++ [.cmd (encode (.init ack slotOk a clk dat)), .resp st 0#16] ∧
      t.env = afterMoves n s.env

/-- R101, R182, D26: when `LineCfg` answers `fail`, `INIT` answers `E_LINE_CONFIG`: no line is written and no context
exists. -/
def Obligations.InitFailsWhenTheLinesAreNotConfigured : Prop :=
  ∀ (ack : Bool) (a : Byte) (clk dat : LineId) (s : State),
    s.upc = .idle → inv s = true → initRefusal true a clk dat s = none → (nextCfgAnswer s.env).1 = .fail →
    ∃ t : State, exec (.init ack true a clk dat) s = .next t ∧ RefusedFrame s t ∧ t.ctx = none ∧
      t.cmd = encode (.init ack true a clk dat) ∧ t.resp = responseWord .lineConfig 0#16 ∧
      fgTrace t = fgTrace s ++
        [.cmd (encode (.init ack true a clk dat)), .cfg clk dat .fail, .resp .lineConfig 0#16] ∧
      t.env = afterMoves 4 (nextCfgAnswer s.env).2

/-- R106, R104: when `ArmIrq` answers `fail`, `INIT` answers `E_IRQ_ARM` with the handle 0: the constructed context is
released, `armed` stays 0, and the lines stay configured and driven high. -/
def Obligations.InitReleasesTheContextWhenArmingFails : Prop :=
  ∀ (a : Byte) (clk dat : LineId) (s : State),
    s.upc = .idle → inv s = true → initRefusal true a clk dat s = none → (nextCfgAnswer s.env).1 = .ok →
    (nextArmAnswer (nextTagDraw (nextCfgAnswer s.env).2).2).1 = .fail →
    ∃ t : State, exec (.init true true a clk dat) s = .next t ∧ t.ctx = none ∧ t.armed = false ∧
      t.sdaDrv = some true ∧ t.sclDrv = some true ∧ t.upc = .idle ∧ t.cfg = s.cfg ∧ t.txbyte = s.txbyte ∧
      t.bitidx = s.bitidx ∧ t.ret = s.ret ∧ t.acked = s.acked ∧ t.result = s.result ∧
      t.cmd = encode (.init true true a clk dat) ∧ t.resp = responseWord .irqArm 0#16 ∧
      fgTrace t = fgTrace s ++
        [.cmd (encode (.init true true a clk dat)), .cfg clk dat .ok, .lineWrite dat true, .lineWrite clk true,
          .arm dat .fail, .resp .irqArm 0#16] ∧
      t.env = afterMoves 8 (nextArmAnswer (nextTagDraw (nextCfgAnswer s.env).2).2).2

/-- R101, R104, R105, R108: when no check fails and the environment answers `ok`, `INIT` drives the data line and then
the clock line high, constructs the context in `Ready` with the counter 0 and the drawn non-zero tag, arms the
interrupt exactly when asked to, and answers `OK` with the tag. -/
def Obligations.InitConstructsTheContext : Prop :=
  ∀ (ack : Bool) (a : Byte) (clk dat : LineId) (s : State),
    s.upc = .idle → inv s = true → initRefusal true a clk dat s = none → (nextCfgAnswer s.env).1 = .ok →
    (ack = true → (nextArmAnswer (nextTagDraw (nextCfgAnswer s.env).2).2).1 = .ok) →
    ∃ (t : State) (h : Handle), h = tagOfDraw (nextTagDraw (nextCfgAnswer s.env).2).1 ∧ h ≠ 0#16 ∧
      exec (.init ack true a clk dat) s = .next t ∧
      t.ctx = some
        { addrS := storedAddress a
          clockLine := clk
          dataLine := dat
          ackEnabled := ack
          state := .ready
          ackEventCount := 0
          selfTag := h } ∧
      (storedAddress a).toNat = 2 * a.toNat ∧
      t.armed = ack ∧ t.sdaDrv = some true ∧ t.sclDrv = some true ∧ t.upc = .idle ∧ t.cfg = s.cfg ∧
      t.txbyte = s.txbyte ∧ t.bitidx = s.bitidx ∧ t.ret = s.ret ∧ t.acked = s.acked ∧ t.result = s.result ∧
      t.cmd = encode (.init ack true a clk dat) ∧ t.resp = responseWord .ok h ∧
      fgTrace t = fgTrace s ++
        [.cmd (encode (.init ack true a clk dat)), .cfg clk dat .ok, .lineWrite dat true, .lineWrite clk true] ++
        (if ack then [.arm dat .ok] else []) ++ [.resp .ok h] ∧
      t.env = afterMoves 9 (if ack then (nextArmAnswer (nextTagDraw (nextCfgAnswer s.env).2).2).2
        else (nextTagDraw (nextCfgAnswer s.env).2).2)

/-- R108: after `OK`, the context is live in `Ready` with the counter 0, its non-zero tag is the handle, both lines were
written high and `armed` is the command's `ack`; after any error of an `INIT` that found the slot empty, the slot is empty and
the handle is 0. -/
def Obligations.InitLeavesNoPartialContext : Prop :=
  ∀ (ack slotOk : Bool) (a : Byte) (clk dat : LineId) (s : State),
    s.upc = .idle → inv s = true →
    ∃ t : State, exec (.init ack slotOk a clk dat) s = .next t ∧
      (respStatus t = statusCode .ok → ctxValid t = true ∧ t.sdaDrv = some true ∧ t.sclDrv = some true ∧
        t.armed = ack ∧ ∃ c : Context, t.ctx = some c ∧ respHandle t = c.selfTag ∧ c.selfTag ≠ 0#16 ∧
          c.state = .ready ∧ c.ackEventCount = 0) ∧
      (respStatus t ≠ statusCode .ok → s.ctx = none → ctxValid t = false ∧ respHandle t = 0#16)

/-! ## FREE -/

/-- R110, R112 (a): `FREE` of the null handle answers `OK` with the handle 0 and has no effect, a live context
included. -/
def Obligations.FreeOfTheNullHandleIsANoOp : Prop :=
  ∀ s : State, s.upc = .idle → inv s = true →
    ∃ t : State, exec (.free 0#16) s = .next t ∧ RefusedFrame s t ∧ t.cmd = encode (.free 0#16) ∧
      t.resp = responseWord .ok 0#16 ∧ fgTrace t = fgTrace s ++ [.cmd (encode (.free 0#16)), .resp .ok 0#16] ∧
      t.env = afterMoves 1 s.env

/-- R110, R113: `FREE` of the live context's handle, in any protocol state, disarms the interrupt, drops a pending edge,
empties the slot, leaves both lines at their last levels, and answers `OK` with the handle 0. -/
def Obligations.FreeReleasesTheContext : Prop :=
  ∀ (h : Handle) (s : State), s.upc = .idle → inv s = true → handleOk h s = true →
    ∃ t : State, exec (.free h) s = .next t ∧ t.ctx = none ∧ t.armed = false ∧ t.irqPending = false ∧
      t.sdaDrv = s.sdaDrv ∧ t.sclDrv = s.sclDrv ∧ t.upc = .idle ∧ t.cfg = s.cfg ∧ t.txbyte = s.txbyte ∧
      t.bitidx = s.bitidx ∧ t.ret = s.ret ∧ t.acked = s.acked ∧ t.result = s.result ∧
      t.cmd = encode (.free h) ∧ t.resp = responseWord .ok 0#16 ∧
      fgTrace t = fgTrace s ++ [.cmd (encode (.free h))] ++ (if s.armed then [.disarm] else []) ++ [.resp .ok 0#16] ∧
      t.env = afterMoves 3 s.env

/-- R110, R111, R112 (c) and (d): `FREE` of a non-null handle that does not name the live context answers `E_HANDLE` with
the handle unchanged, and nothing is released. -/
def Obligations.FreeRefusesAForeignHandle : Prop :=
  ∀ (h : Handle) (s : State), s.upc = .idle → inv s = true → h ≠ 0#16 → handleOk h s = false →
    ∃ t : State, exec (.free h) s = .next t ∧ RefusedFrame s t ∧ t.cmd = encode (.free h) ∧
      t.resp = responseWord .badHandle h ∧
      fgTrace t = fgTrace s ++ [.cmd (encode (.free h)), .resp .badHandle h] ∧ t.env = afterMoves 2 s.env

/-- R112 (b): a second `FREE` with the handle that the first returned answers `OK` and has no effect. -/
def Obligations.FreeTwiceIsIdempotent : Prop :=
  ∀ (h : Handle) (s : State), s.upc = .idle → inv s = true → handleOk h s = true →
    ∃ t u : State, exec (.free h) s = .next t ∧ exec (.free (respHandle t)) t = .next u ∧
      RefusedFrame t u ∧ u.irqPending = false ∧ u.resp = responseWord .ok 0#16

/-! ## START, WRITE, STOP -/

/-- R160, R162, R164: `START` from `Ready` puts the Start condition and one SendByte of the address byte on the lines, and
ends in `Write` with both lines low; it answers `OK` (then the counter rose by 1) or `E_NACK` (then it rose by 0 or, in
the late-edge race, 1). -/
def Obligations.StartSendsTheAddressByte : Prop :=
  ∀ (h : Handle) (s : State) (c : Context),
    s.upc = .idle → handleOk h s = true → s.ctx = some c → c.state = .ready →
    ∃ (t : State) (c' : Context) (st : Status), exec (.start h) s = .next t ∧ t.ctx = some c' ∧
      DriveFrame c c' s t ∧ c'.state = .write ∧ t.sdaDrv = some false ∧ t.sclDrv = some false ∧
      t.txbyte = c.addrS &&& 0xFE#8 ∧ t.bitidx = 0 ∧ t.ret = .s6 ∧ t.cmd = encode (.start h) ∧
      ((st = .ok ∧ t.acked = true ∧ c'.ackEventCount = c.ackEventCount + 1) ∨
       (st = .nack ∧ t.acked = false ∧
         (c'.ackEventCount = c.ackEventCount ∨ c'.ackEventCount = c.ackEventCount + 1))) ∧
      t.result = st ∧ t.resp = responseWord st h ∧
      fgTrace t = fgTrace s ++ [.cmd (encode (.start h))] ++ startEvents c.clockLine c.dataLine ++
        sendByteEvents c.clockLine c.dataLine (c.addrS &&& 0xFE#8) ++ [.resp st h] ∧
      t.env = afterMoves 39 s.env

/-- R165, R166, R169: `WRITE` from `Write` or `Stop` puts one SendByte of its byte on the lines and ends in `Stop` with both
lines low, whether the byte was acknowledged or not; its status is SendByte's. -/
def Obligations.WriteSendsItsByte : Prop :=
  ∀ (b : Byte) (h : Handle) (s : State) (c : Context),
    s.upc = .idle → handleOk h s = true → s.ctx = some c → (c.state = .write ∨ c.state = .stop) →
    ∃ (t : State) (c' : Context) (st : Status), exec (.write b h) s = .next t ∧ t.ctx = some c' ∧
      DriveFrame c c' s t ∧ c'.state = .stop ∧ t.sdaDrv = some false ∧ t.sclDrv = some false ∧
      t.txbyte = b ∧ t.bitidx = 0 ∧ t.ret = .w3 ∧ t.cmd = encode (.write b h) ∧
      ((st = .ok ∧ t.acked = true ∧ c'.ackEventCount = c.ackEventCount + 1) ∨
       (st = .nack ∧ t.acked = false ∧
         (c'.ackEventCount = c.ackEventCount ∨ c'.ackEventCount = c.ackEventCount + 1))) ∧
      t.result = st ∧ t.resp = responseWord st h ∧
      fgTrace t = fgTrace s ++ [.cmd (encode (.write b h))] ++ sendByteEvents c.clockLine c.dataLine b ++
        [.resp st h] ∧
      t.env = afterMoves 37 s.env

/-- R170, R171, R172, R173: `STOP` from `Stop` or `Ready` raises the clock line, then the data line, with the setup and
bus-free intervals, ends in `Ready` with both lines high, and answers `OK`; it solicits no acknowledge. -/
def Obligations.StopEndsTheTransaction : Prop :=
  ∀ (h : Handle) (s : State) (c : Context),
    s.upc = .idle → handleOk h s = true → s.ctx = some c → (c.state = .stop ∨ c.state = .ready) →
    ∃ t : State, exec (.stop h) s = .next t ∧ t.ctx = some { c with state := .ready } ∧ t.armed = s.armed ∧
      t.sdaDrv = some true ∧ t.sclDrv = some true ∧ t.upc = .idle ∧ t.cfg = s.cfg ∧ t.txbyte = s.txbyte ∧
      t.bitidx = s.bitidx ∧ t.ret = s.ret ∧ t.acked = s.acked ∧ t.result = s.result ∧
      t.cmd = encode (.stop h) ∧ t.resp = responseWord .ok h ∧
      fgTrace t = fgTrace s ++ [.cmd (encode (.stop h))] ++ stopEvents c.clockLine c.dataLine ++ [.resp .ok h] ∧
      t.env = afterMoves 7 s.env

/-- R163, R167, R172, R174: `START` from `Write` or `Stop`, `WRITE` from `Ready` and `STOP` from `Write` answer
`E_INVALID_TRANSITION`: no line is written, no delay is made, and the context is unchanged. -/
def Obligations.EnvelopeRefusesAnIllegalTransition : Prop :=
  ∀ (i : Instr) (h : Handle) (s : State) (c : Context),
    s.upc = .idle → handleOk h s = true → s.ctx = some c →
    ((i = .start h ∧ (c.state = .write ∨ c.state = .stop)) ∨
     ((∃ b, i = .write b h) ∧ c.state = .ready) ∨
     (i = .stop h ∧ c.state = .write)) →
    ∃ t : State, exec i s = .next t ∧ RefusedFrame s t ∧ t.cmd = encode i ∧
      t.resp = responseWord .invalidTransition h ∧
      fgTrace t = fgTrace s ++ [.cmd (encode i), .resp .invalidTransition h] ∧ t.env = afterMoves 2 s.env

/-- R175: `START`, `WRITE` and `STOP` whose handle does not name the live context answer `E_HANDLE` with the handle
unchanged, changing nothing and driving nothing. -/
def Obligations.EnvelopeRefusesAForeignHandle : Prop :=
  ∀ (i : Instr) (h : Handle) (s : State),
    s.upc = .idle → inv s = true → handleOk h s = false →
    (i = .start h ∨ (∃ b, i = .write b h) ∨ i = .stop h) →
    ∃ t : State, exec i s = .next t ∧ RefusedFrame s t ∧ t.cmd = encode i ∧ t.resp = responseWord .badHandle h ∧
      fgTrace t = fgTrace s ++ [.cmd (encode i), .resp .badHandle h] ∧ t.env = afterMoves 1 s.env

/-- R222: while the slot is empty, `START`, `WRITE` and `STOP` answer `E_HANDLE`, and `FREE` answers `OK` for the null handle
and `E_HANDLE` for any other. -/
def Obligations.EmptySlotAnswersBeforeInit : Prop :=
  ∀ (s : State) (h : Handle), s.upc = .idle → s.ctx = none →
    (∀ i : Instr, (i = .start h ∨ (∃ b, i = .write b h) ∨ i = .stop h ∨ (i = .free h ∧ h ≠ 0#16)) →
      ∃ t : State, exec i s = .next t ∧ t.ctx = none ∧ t.resp = responseWord .badHandle h) ∧
    (∃ t : State, exec (.free 0#16) s = .next t ∧ t.ctx = none ∧ t.resp = responseWord .ok 0#16)

/-! ## SendByte and the acknowledge -/

/-- R141 (the specification's derivation from R131): from its entry, SendByte takes exactly 32 micro-steps to its return
label, whatever the other agents do; its events are 28 line writes and one delay. -/
def Obligations.SendByteTakesThirtyTwoMicroSteps : Prop :=
  ∀ (s : State) (c : Context),
    s.upc = .b0 → s.bitidx = 7 → s.ctx = some c → (c.state = .start ∨ c.state = .write) →
    (∀ k : Nat, k < 32 → (ticks k s).upc ≠ returnLabel s.ret) ∧
    (ticks 32 s).upc = returnLabel s.ret ∧
    fgTrace (ticks 32 s) = fgTrace s ++ sendByteEvents c.clockLine c.dataLine s.txbyte ∧
    (sendByteEvents c.clockLine c.dataLine s.txbyte).countP isLineWrite = 28 ∧
    (sendByteEvents c.clockLine c.dataLine s.txbyte).count (.delay .tAckSettle) = 1

/-- R137: SendByte returns with `OK` or `E_NACK`, the state `Write`, both lines low and `bitidx` 0, whatever the other agents
do; from that state a transition to `Stop` and one to `AckWait` are both accepted. -/
def Obligations.SendByteLeavesTheStateUsable : Prop :=
  ∀ (s : State) (c : Context),
    s.upc = .b0 → s.bitidx = 7 → s.ctx = some c → (c.state = .start ∨ c.state = .write) →
    (ticks 32 s).upc = returnLabel s.ret ∧
    ((ticks 32 s).result = .ok ∨ (ticks 32 s).result = .nack) ∧
    (ticks 32 s).sdaDrv = some false ∧ (ticks 32 s).sclDrv = some false ∧ (ticks 32 s).bitidx = 0 ∧
    ∃ c' : Context, (ticks 32 s).ctx = some c' ∧ c'.state = .write ∧
      transition .stop c' = (.ok, { c' with state := .stop }) ∧
      transition .ackWait c' = (.ok, { c' with state := .ackWait })

/-- R54, R58: on two different lines, the events that the foreground adds to the trace in the 32 micro-steps of SendByte
show the peer, at their nine rising clock edges, bits 7 down to 0 of the byte and then the released data line, whatever
the other agents do and whatever level the data line had before. -/
def Obligations.PeerSeesTheByteMostSignificantBitFirst : Prop :=
  ∀ (s : State) (c : Context),
    s.upc = .b0 → s.bitidx = 7 → s.ctx = some c → (c.state = .start ∨ c.state = .write) → c.clockLine ≠ c.dataLine →
    ∃ es : List Event, fgTrace (ticks 32 s) = fgTrace s ++ es ∧
      ∀ sda : Level, wireBits c.clockLine c.dataLine sda es =
        [s.txbyte.getLsbD 7, s.txbyte.getLsbD 6, s.txbyte.getLsbD 5, s.txbyte.getLsbD 4, s.txbyte.getLsbD 3,
          s.txbyte.getLsbD 2, s.txbyte.getLsbD 1, s.txbyte.getLsbD 0, true]

/-- R138, R139, R193: under prompt service with the interrupt armed, `WRITE` answers `OK` exactly when the environment
raises an edge at one of the six boundaries before `A1` to `A6`; the counter rises by 1 exactly when it raises one
before `A1` to `A7`, and by 0 otherwise. -/
def Obligations.WriteIsAcknowledgedExactlyByAnEdgeInTheWindow : Prop :=
  ∀ (b : Byte) (h : Handle) (s : State) (c : Context),
    s.upc = .idle → handleOk h s = true → s.ctx = some c → (c.state = .write ∨ c.state = .stop) →
    s.armed = true → s.cfg.irqService = .prompt →
    ∃ (t : State) (c' : Context), exec (.write b h) s = .next t ∧ t.ctx = some c' ∧
      t.resp = responseWord (if edgeWithin s 28 6 then .ok else .nack) h ∧
      c'.ackEventCount = c.ackEventCount + (if edgeWithin s 28 7 then 1 else 0)

/-- R138, R139, R193: the same for `START` from `Ready`, whose window is the boundaries before its `A1` to `A6`. -/
def Obligations.StartIsAcknowledgedExactlyByAnEdgeInTheWindow : Prop :=
  ∀ (h : Handle) (s : State) (c : Context),
    s.upc = .idle → handleOk h s = true → s.ctx = some c → c.state = .ready →
    s.armed = true → s.cfg.irqService = .prompt →
    ∃ (t : State) (c' : Context), exec (.start h) s = .next t ∧ t.ctx = some c' ∧
      t.resp = responseWord (if edgeWithin s 31 6 then .ok else .nack) h ∧
      c'.ackEventCount = c.ackEventCount + (if edgeWithin s 31 7 then 1 else 0)

/-- R234: with `ackEnabled = 0` the interrupt is not armed, and `START` and every `WRITE` answer `E_NACK`, whatever the
peer does, although the byte is clocked out. -/
def Obligations.CaptureDisabledMeansEveryByteReportsNack : Prop :=
  ∀ (h : Handle) (s : State) (c : Context),
    s.upc = .idle → inv s = true → handleOk h s = true → s.ctx = some c → c.ackEnabled = false →
    s.armed = false ∧
    (c.state = .ready → ∃ (t : State) (c' : Context), exec (.start h) s = .next t ∧ t.ctx = some c' ∧
      t.resp = responseWord .nack h ∧ c'.ackEventCount = c.ackEventCount ∧
      fgTrace t = fgTrace s ++ [.cmd (encode (.start h))] ++ startEvents c.clockLine c.dataLine ++
        sendByteEvents c.clockLine c.dataLine (c.addrS &&& 0xFE#8) ++ [.resp .nack h]) ∧
    (∀ b : Byte, (c.state = .write ∨ c.state = .stop) →
      ∃ (t : State) (c' : Context), exec (.write b h) s = .next t ∧ t.ctx = some c' ∧
        t.resp = responseWord .nack h ∧ c'.ackEventCount = c.ackEventCount ∧
        fgTrace t = fgTrace s ++ [.cmd (encode (.write b h))] ++ sendByteEvents c.clockLine c.dataLine b ++
          [.resp .nack h])

/-- R138, R139, Scenario C: when the environment raises no edge and none is pending, `START` from `Ready` and `WRITE` from
`Write` or `Stop` answer `E_NACK`, the counter does not change and nothing is pending, under either service discipline,
armed or not. Rests on R192 (log entry 7): the controller's own falling edges raise none. -/
def Obligations.SilentPeerMeansNack : Prop :=
  ∀ (h : Handle) (s : State) (c : Context),
    s.upc = .idle → handleOk h s = true → s.ctx = some c → silent s = true →
    (c.state = .ready →
      ∃ (t : State) (c' : Context), exec (.start h) s = .next t ∧ t.ctx = some c' ∧ c'.state = .write ∧
        t.resp = responseWord .nack h ∧ c'.ackEventCount = c.ackEventCount ∧ t.irqPending = false) ∧
    (∀ b : Byte, (c.state = .write ∨ c.state = .stop) →
      ∃ (t : State) (c' : Context), exec (.write b h) s = .next t ∧ t.ctx = some c' ∧ c'.state = .stop ∧
        t.resp = responseWord .nack h ∧ c'.ackEventCount = c.ackEventCount ∧ t.irqPending = false)

/-- R62: if the handler runs between the sample of `A6` and the forced write of `A7`, the state ends at `Write` all the
same and the byte is reported as not acknowledged; only the counter is one higher. -/
def Obligations.SampleAndForceRaceIsBenign : Prop :=
  ∀ (s : State) (c : Context), s.upc = .a7 → s.ctx = some c → c.state = .ackWait → s.acked = false →
    (fgStep s).ctx = some { c with state := .write } ∧
    (fgStep (ackIrq s)).ctx = some { c with state := .write, ackEventCount := c.ackEventCount + 1 } ∧
    (fgStep s).result = .nack ∧ (fgStep (ackIrq s)).result = .nack ∧
    (fgStep s).upc = returnLabel s.ret ∧ (fgStep (ackIrq s)).upc = returnLabel s.ret

/-! ## The interrupt and the agents -/

/-- R151: one run of the handler clears the pending condition and, if and only if the state is `AckWait`, moves it to
`Write` and increments the counter; nothing else changes. -/
def Obligations.HandlerRunTakesOnlyItsOneEdge : Prop :=
  ∀ (s : State) (c : Context), s.ctx = some c →
    (c.state = .ackWait → ackIrq s = { s with
      irqPending := false
      ctx := some { c with state := .write, ackEventCount := c.ackEventCount + 1 }
      trace := s.trace ++ [.irq .taken] }) ∧
    (c.state ≠ .ackWait → ackIrq s = { s with irqPending := false, trace := s.trace ++ [.irq .ignored] })

/-- R31, R191: an edge makes the interrupt pending if it is armed, merges with one already pending, and is lost if it is
not armed. -/
def Obligations.EdgePendsOnlyWhileArmed : Prop :=
  ∀ s : State,
    (s.armed = true → raiseEdge s = { s with irqPending := true, trace := s.trace ++ [.edge] }) ∧
    (s.armed = false → raiseEdge s = { s with trace := s.trace ++ [.edge] })

/-- R42, R153, R191: between two foreground micro-steps the environment and the handler change nothing but the pending bit, the
shared state and counter along the handler's one edge per run, and the trace by edges and handler runs; one entry
of the script is used (the model's own account of inputs, log entries 1 and 2). -/
def Obligations.OtherAgentsTouchOnlyTheSharedData : Prop :=
  ∀ s : State, EnvironmentChange s (boundary s) ∧ (boundary s).env = afterMoves 1 s.env

/-- R193: under prompt service the handler is not enabled when the foreground's next micro-step is made. -/
def Obligations.PromptServiceComesBeforeTheForeground : Prop :=
  ∀ s : State, s.cfg.irqService = .prompt → handlerEnabled (boundary s) = false

/-- R199: lazy service admits every run of prompt service. For a run of micro-steps, and for a run of steps in the sense of
R226 (words accepted, idle turns), one script of moves gives the same run under lazy service, state for state up to its
end but for the script and the switch. -/
def Obligations.LazyServiceAdmitsEveryPromptRun : Prop :=
  ∀ (n : Nat) (s : State), s.cfg.irqService = .prompt →
    (∃ ms : List (List Move), ∀ k : Nat, k ≤ n →
      ∃ rest : List (List Move), ticks k (underLazy ms s) = underLazy rest (ticks k s)) ∧
    (∃ ms : List (List Move), ∀ k : Nat, k ≤ n →
      ∃ rest : List (List Move), steps k (underLazy ms s) = mapNext (underLazy rest) (steps k s))

/-- R192: no micro-step of the foreground, its own falling data line included, makes the interrupt pending, and it adds no
edge and no handler run to the trace. -/
def Obligations.ForegroundRaisesNoEdge : Prop :=
  ∀ s : State, ((fgStep s).irqPending = true → s.irqPending = true) ∧
    ∃ es : List Event, (fgStep s).trace = s.trace ++ es ∧ es.all foregroundEvent = true

/-- R42, first and second column: the foreground creates and releases the context only at `I6`, `I7` and `F2`, writes
`armed` only at `I7` and `F2` and the pending bit only at `F2`, writes the protocol state of a context that stays only at
`S1`, `W1`, `W3`, `P1`, `A0` and `A7`, and never writes the counter or an immutable field of such a context. -/
def Obligations.ForegroundWritesOnlyWhatItOwns : Prop :=
  ∀ s : State,
    (s.upc ≠ .i7 → s.upc ≠ .f2 → (fgStep s).armed = s.armed) ∧
    (s.upc ≠ .f2 → (fgStep s).irqPending = s.irqPending) ∧
    (s.upc ≠ .i6 → s.upc ≠ .i7 → s.upc ≠ .f2 → ctxValid (fgStep s) = ctxValid s) ∧
    (fgStep s).cfg = s.cfg ∧
    (∀ c c' : Context,
      s.upc ∉ [Label.i6, .s1, .w1, .w3, .p1, .a0, .a7] → s.ctx = some c → (fgStep s).ctx = some c' →
      c'.state = c.state) ∧
    (∀ c c' : Context, s.upc ≠ .i6 → s.ctx = some c → (fgStep s).ctx = some c' →
      c'.ackEventCount = c.ackEventCount ∧ c'.addrS = c.addrS ∧ c'.clockLine = c.clockLine ∧
      c'.dataLine = c.dataLine ∧ c'.ackEnabled = c.ackEnabled ∧ c'.selfTag = c.selfTag)

/-- R21, R22, R23, R28, R42: over a step, a context that stays keeps its address, its lines, its acknowledge mode and its
tag, and its counter does not decrease. -/
def Obligations.LiveContextIsImmutableButForStateAndCount : Prop :=
  ∀ (s t : State) (c c' : Context), s.upc = .idle → step s = .next t → s.ctx = some c → t.ctx = some c' →
    c'.addrS = c.addrS ∧ c'.clockLine = c.clockLine ∧ c'.dataLine = c.dataLine ∧
    c'.ackEnabled = c.ackEnabled ∧ c'.selfTag = c.selfTag ∧ c.ackEventCount ≤ c'.ackEventCount

/-- R154: over a step, the counter of a context that stays rises by exactly the number of handler runs that found
`AckWait`, so it never decreases; and no decision rests on it: a live context whose counter is `k` higher runs every step in
the same way, with the counter `k` higher at the end if the context stays. -/
def Obligations.CounterOnlyCountsTheTakenRuns : Prop :=
  (∀ (s t : State) (c c' : Context), s.upc = .idle → step s = .next t → s.ctx = some c → t.ctx = some c' →
    c.ackEventCount ≤ c'.ackEventCount ∧
    c'.ackEventCount + s.trace.count (.irq .taken) = c.ackEventCount + t.trace.count (.irq .taken)) ∧
  (∀ (k : Nat) (s : State), s.upc = .idle → ctxValid s = true →
    step (addCount k s) = mapNext (addCount k) (step s))

/-- R231: on two different lines, the data line is written only while the clock line is low, but for the Start condition
(`S2`), the Stop condition (`P4`) and the first write of Initialize (`I4`). -/
def Obligations.DataLineChangesOnlyWhileTheClockIsLow : Prop :=
  ∀ (s : State) (v : Level), inv s = true → busClockLine s ≠ busDataLine s →
    (fgStep s).trace = s.trace ++ [.lineWrite (busDataLine s) v] →
    s.sclDrv = some false ∨ s.upc = .s2 ∨ s.upc = .p4 ∨ s.upc = .i4

/-! ## Ports and intervals -/

/-- R78, R80: `respond` writes the response word with zeros in 31:20, the status code in 19:16 and the handle in 15:0, sets
the sequencer idle, and records the response; the twelve status codes are the numbers 0 to 11 in the order of R80. -/
def Obligations.RespondWritesTheResponseWord : Prop :=
  ∀ (st : Status) (h : Handle) (s : State),
    respond st h s = { s with resp := responseWord st h, upc := .idle, trace := s.trace ++ [.resp st h] } ∧
    (responseWord st h).extractLsb' 20 12 = 0#12 ∧ respStatus (respond st h s) = statusCode st ∧
    respHandle (respond st h s) = h ∧ busyO (respond st h s) = false ∧
    (statusCode .ok = 0#4 ∧ statusCode .invalidSlot = 1#4 ∧ statusCode .invalidLine = 2#4 ∧
      statusCode .reservedAddr = 3#4 ∧ statusCode .addrTooLarge = 4#4 ∧ statusCode .alloc = 5#4 ∧
      statusCode .lineConfig = 6#4 ∧ statusCode .irqArm = 7#4 ∧ statusCode .invalidTransition = 8#4 ∧
      statusCode .nack = 9#4 ∧ statusCode .badHandle = 10#4 ∧ statusCode .illegalCmd = 11#4)

/-- R38, R81: the observation ports show the live context's state by its number and its counter, and hold no value while
the slot is empty. -/
def Obligations.ObservationPortsShowTheContext : Prop :=
  (∀ s : State, s.ctx = none → ctxValidO s = false ∧ stateO s = none ∧ ackCountO s = none) ∧
  (∀ (s : State) (c : Context), s.ctx = some c →
    ctxValidO s = true ∧ stateO s = some (protoCode c.state) ∧ ackCountO s = some c.ackEventCount) ∧
  (protoCode .ready = 0#3 ∧ protoCode .start = 1#3 ∧ protoCode .ackWait = 2#3 ∧ protoCode .write = 3#3 ∧
    protoCode .stop = 4#3)

/-- R33: `cycles(name)` is the least number of counter cycles that is not shorter than the named interval. -/
def Obligations.IntervalCyclesRoundUp : Prop :=
  ∀ (cfg : Config) (n : Interval),
    intervalNs cfg n * cfg.cpuHz ≤ intervalCycles cfg n * 1000000000 ∧
    ∀ k : Nat, intervalNs cfg n * cfg.cpuHz ≤ k * 1000000000 → intervalCycles cfg n ≤ k
end

