-- ==== Sys2Proof/Laws/Encoding.lean ====
section
/-! SUPPORT. The words of the three formats bit by bit, their fields, and the response word's fields. -/

namespace Sys2Proof

/-- Format I, bit by bit (R71). -/
theorem getLsbD_wordI (ack slotOk : Bool) (a : Byte) (clk dat : LineId) (i : Nat) :
    (wordI ack slotOk a clk dat).getLsbD i =
      if i < 8 then dat.getLsbD i
      else if i < 16 then clk.getLsbD (i - 8)
      else if i < 24 then a.getLsbD (i - 16)
      else if i = 26 then slotOk
      else if i = 27 then ack
      else decide (i = 28) := by
  by_cases h : i < 32
  · simp only [wordI, BitVec.getLsbD_append]
    interval_cases i <;> simp
  · rw [BitVec.getLsbD_of_ge _ _ (by omega)]
    repeat' split
    all_goals first | omega | simp; omega

/-- Format H, bit by bit (R72). -/
theorem getLsbD_wordH (op : BitVec 4) (h : Handle) (i : Nat) :
    (wordH op h).getLsbD i =
      if i < 16 then h.getLsbD i else if i < 28 then false else op.getLsbD (i - 28) := by
  simp only [wordH, BitVec.getLsbD_append]
  by_cases h1 : i < 16
  · simp [h1]
  · by_cases h2 : i < 28
    · have : i - 16 < 12 := by omega
      simp [h1, h2, this]
    · have : ¬ i - 16 < 12 := by omega
      have e : i - 16 - 12 = i - 28 := by omega
      simp [h1, h2, this, e]

/-- Format W, bit by bit (R73). -/
theorem getLsbD_wordW (b : Byte) (h : Handle) (i : Nat) :
    (wordW b h).getLsbD i =
      if i < 16 then h.getLsbD i else if i < 24 then b.getLsbD (i - 16) else decide (i = 28 ∨ i = 29) := by
  by_cases h : i < 32
  · simp only [wordW, BitVec.getLsbD_append]
    interval_cases i <;> simp
  · rw [BitVec.getLsbD_of_ge _ _ (by omega)]
    repeat' split
    all_goals first | omega | simp; omega

@[simp] theorem fieldAck_wordI (ack slotOk : Bool) (a : Byte) (clk dat : LineId) :
    fieldAck (wordI ack slotOk a clk dat) = ack := by
  simp only [fieldAck, getLsbD_wordI]; simp

@[simp] theorem fieldSlotOk_wordI (ack slotOk : Bool) (a : Byte) (clk dat : LineId) :
    fieldSlotOk (wordI ack slotOk a clk dat) = slotOk := by
  simp only [fieldSlotOk, getLsbD_wordI]; simp

@[simp] theorem fieldPeerAddress_wordI (ack slotOk : Bool) (a : Byte) (clk dat : LineId) :
    fieldPeerAddress (wordI ack slotOk a clk dat) = a := by
  apply BitVec.eq_of_getLsbD_eq
  intro i hi
  simp only [fieldPeerAddress, BitVec.getLsbD_extractLsb', getLsbD_wordI]
  interval_cases i <;> simp

@[simp] theorem fieldClockLine_wordI (ack slotOk : Bool) (a : Byte) (clk dat : LineId) :
    fieldClockLine (wordI ack slotOk a clk dat) = clk := by
  apply BitVec.eq_of_getLsbD_eq
  intro i hi
  simp only [fieldClockLine, BitVec.getLsbD_extractLsb', getLsbD_wordI]
  interval_cases i <;> simp

@[simp] theorem fieldDataLine_wordI (ack slotOk : Bool) (a : Byte) (clk dat : LineId) :
    fieldDataLine (wordI ack slotOk a clk dat) = dat := by
  apply BitVec.eq_of_getLsbD_eq
  intro i hi
  simp only [fieldDataLine, BitVec.getLsbD_extractLsb', getLsbD_wordI]
  interval_cases i <;> simp

@[simp] theorem fieldHandle_wordH (op : BitVec 4) (h : Handle) : fieldHandle (wordH op h) = h := by
  apply BitVec.eq_of_getLsbD_eq
  intro i hi
  simp only [fieldHandle, BitVec.getLsbD_extractLsb', getLsbD_wordH]
  interval_cases i <;> simp

@[simp] theorem fieldHandle_wordW (b : Byte) (h : Handle) : fieldHandle (wordW b h) = h := by
  apply BitVec.eq_of_getLsbD_eq
  intro i hi
  simp only [fieldHandle, BitVec.getLsbD_extractLsb', getLsbD_wordW]
  interval_cases i <;> simp

@[simp] theorem fieldByte_wordW (b : Byte) (h : Handle) : fieldByte (wordW b h) = b := by
  apply BitVec.eq_of_getLsbD_eq
  intro i hi
  simp only [fieldByte, BitVec.getLsbD_extractLsb', getLsbD_wordW]
  interval_cases i <;> simp

namespace Machine

/-- The response word, bit by bit (R78). -/
theorem getLsbD_responseWord (st : Status) (h : Handle) (i : Nat) :
    (responseWord st h).getLsbD i =
      if i < 16 then h.getLsbD i else if i < 20 then (statusCode st).getLsbD (i - 16) else false := by
  by_cases hi : i < 32
  · simp only [responseWord, BitVec.getLsbD_append]
    interval_cases i <;> simp
  · rw [BitVec.getLsbD_of_ge _ _ (by omega)]
    repeat' split
    all_goals first | omega | rfl

/-- The handle of a response word (R78). -/
@[simp] theorem extract_handle_responseWord (st : Status) (h : Handle) :
    (responseWord st h).extractLsb' 0 16 = h := by
  apply BitVec.eq_of_getLsbD_eq
  intro i hi
  simp only [BitVec.getLsbD_extractLsb', getLsbD_responseWord]
  interval_cases i <;> simp

/-- The status of a response word (R78). -/
@[simp] theorem extract_status_responseWord (st : Status) (h : Handle) :
    (responseWord st h).extractLsb' 16 4 = statusCode st := by
  apply BitVec.eq_of_getLsbD_eq
  intro i hi
  simp only [BitVec.getLsbD_extractLsb', getLsbD_responseWord]
  interval_cases i <;> simp

end Machine

end Sys2Proof
end

