-- ==== Sys2Proof/Laws/State.lean ====
section
/-! SUPPORT. One lemma per field per update of the shared operations, each true by rfl, so that no proof unfolds a record
update. -/

namespace Sys2Proof.Machine

/-! ## logEvent -/

@[simp] theorem logEvent_cfg (e : Event) (s : State) : (logEvent e s).cfg = s.cfg := rfl
@[simp] theorem logEvent_ctx (e : Event) (s : State) : (logEvent e s).ctx = s.ctx := rfl
@[simp] theorem logEvent_armed (e : Event) (s : State) : (logEvent e s).armed = s.armed := rfl
@[simp] theorem logEvent_irqPending (e : Event) (s : State) : (logEvent e s).irqPending = s.irqPending := rfl
@[simp] theorem logEvent_sdaDrv (e : Event) (s : State) : (logEvent e s).sdaDrv = s.sdaDrv := rfl
@[simp] theorem logEvent_sclDrv (e : Event) (s : State) : (logEvent e s).sclDrv = s.sclDrv := rfl
@[simp] theorem logEvent_upc (e : Event) (s : State) : (logEvent e s).upc = s.upc := rfl
@[simp] theorem logEvent_txbyte (e : Event) (s : State) : (logEvent e s).txbyte = s.txbyte := rfl
@[simp] theorem logEvent_bitidx (e : Event) (s : State) : (logEvent e s).bitidx = s.bitidx := rfl
@[simp] theorem logEvent_ret (e : Event) (s : State) : (logEvent e s).ret = s.ret := rfl
@[simp] theorem logEvent_acked (e : Event) (s : State) : (logEvent e s).acked = s.acked := rfl
@[simp] theorem logEvent_result (e : Event) (s : State) : (logEvent e s).result = s.result := rfl
@[simp] theorem logEvent_cmd (e : Event) (s : State) : (logEvent e s).cmd = s.cmd := rfl
@[simp] theorem logEvent_resp (e : Event) (s : State) : (logEvent e s).resp = s.resp := rfl
@[simp] theorem logEvent_trace (e : Event) (s : State) : (logEvent e s).trace = s.trace ++ [e] := rfl
@[simp] theorem logEvent_env (e : Event) (s : State) : (logEvent e s).env = s.env := rfl

/-! ## goto -/

@[simp] theorem goto_cfg (l : Label) (s : State) : (goto l s).cfg = s.cfg := rfl
@[simp] theorem goto_ctx (l : Label) (s : State) : (goto l s).ctx = s.ctx := rfl
@[simp] theorem goto_armed (l : Label) (s : State) : (goto l s).armed = s.armed := rfl
@[simp] theorem goto_irqPending (l : Label) (s : State) : (goto l s).irqPending = s.irqPending := rfl
@[simp] theorem goto_sdaDrv (l : Label) (s : State) : (goto l s).sdaDrv = s.sdaDrv := rfl
@[simp] theorem goto_sclDrv (l : Label) (s : State) : (goto l s).sclDrv = s.sclDrv := rfl
@[simp] theorem goto_upc (l : Label) (s : State) : (goto l s).upc = l := rfl
@[simp] theorem goto_txbyte (l : Label) (s : State) : (goto l s).txbyte = s.txbyte := rfl
@[simp] theorem goto_bitidx (l : Label) (s : State) : (goto l s).bitidx = s.bitidx := rfl
@[simp] theorem goto_ret (l : Label) (s : State) : (goto l s).ret = s.ret := rfl
@[simp] theorem goto_acked (l : Label) (s : State) : (goto l s).acked = s.acked := rfl
@[simp] theorem goto_result (l : Label) (s : State) : (goto l s).result = s.result := rfl
@[simp] theorem goto_cmd (l : Label) (s : State) : (goto l s).cmd = s.cmd := rfl
@[simp] theorem goto_resp (l : Label) (s : State) : (goto l s).resp = s.resp := rfl
@[simp] theorem goto_trace (l : Label) (s : State) : (goto l s).trace = s.trace := rfl
@[simp] theorem goto_env (l : Label) (s : State) : (goto l s).env = s.env := rfl

/-! ## respond -/

@[simp] theorem respond_cfg (st : Status) (h : Handle) (s : State) : (respond st h s).cfg = s.cfg := rfl
@[simp] theorem respond_ctx (st : Status) (h : Handle) (s : State) : (respond st h s).ctx = s.ctx := rfl
@[simp] theorem respond_armed (st : Status) (h : Handle) (s : State) : (respond st h s).armed = s.armed := rfl
@[simp] theorem respond_irqPending (st : Status) (h : Handle) (s : State) : (respond st h s).irqPending = s.irqPending := rfl
@[simp] theorem respond_sdaDrv (st : Status) (h : Handle) (s : State) : (respond st h s).sdaDrv = s.sdaDrv := rfl
@[simp] theorem respond_sclDrv (st : Status) (h : Handle) (s : State) : (respond st h s).sclDrv = s.sclDrv := rfl
@[simp] theorem respond_upc (st : Status) (h : Handle) (s : State) : (respond st h s).upc = .idle := rfl
@[simp] theorem respond_txbyte (st : Status) (h : Handle) (s : State) : (respond st h s).txbyte = s.txbyte := rfl
@[simp] theorem respond_bitidx (st : Status) (h : Handle) (s : State) : (respond st h s).bitidx = s.bitidx := rfl
@[simp] theorem respond_ret (st : Status) (h : Handle) (s : State) : (respond st h s).ret = s.ret := rfl
@[simp] theorem respond_acked (st : Status) (h : Handle) (s : State) : (respond st h s).acked = s.acked := rfl
@[simp] theorem respond_result (st : Status) (h : Handle) (s : State) : (respond st h s).result = s.result := rfl
@[simp] theorem respond_cmd (st : Status) (h : Handle) (s : State) : (respond st h s).cmd = s.cmd := rfl
@[simp] theorem respond_resp (st : Status) (h : Handle) (s : State) : (respond st h s).resp = responseWord st h := rfl
@[simp] theorem respond_trace (st : Status) (h : Handle) (s : State) : (respond st h s).trace = s.trace ++ [.resp st h] := rfl
@[simp] theorem respond_env (st : Status) (h : Handle) (s : State) : (respond st h s).env = s.env := rfl

/-! ## setCtx -/

@[simp] theorem setCtx_cfg (c : Context) (s : State) : (setCtx c s).cfg = s.cfg := rfl
@[simp] theorem setCtx_ctx (c : Context) (s : State) : (setCtx c s).ctx = some c := rfl
@[simp] theorem setCtx_armed (c : Context) (s : State) : (setCtx c s).armed = s.armed := rfl
@[simp] theorem setCtx_irqPending (c : Context) (s : State) : (setCtx c s).irqPending = s.irqPending := rfl
@[simp] theorem setCtx_sdaDrv (c : Context) (s : State) : (setCtx c s).sdaDrv = s.sdaDrv := rfl
@[simp] theorem setCtx_sclDrv (c : Context) (s : State) : (setCtx c s).sclDrv = s.sclDrv := rfl
@[simp] theorem setCtx_upc (c : Context) (s : State) : (setCtx c s).upc = s.upc := rfl
@[simp] theorem setCtx_txbyte (c : Context) (s : State) : (setCtx c s).txbyte = s.txbyte := rfl
@[simp] theorem setCtx_bitidx (c : Context) (s : State) : (setCtx c s).bitidx = s.bitidx := rfl
@[simp] theorem setCtx_ret (c : Context) (s : State) : (setCtx c s).ret = s.ret := rfl
@[simp] theorem setCtx_acked (c : Context) (s : State) : (setCtx c s).acked = s.acked := rfl
@[simp] theorem setCtx_result (c : Context) (s : State) : (setCtx c s).result = s.result := rfl
@[simp] theorem setCtx_cmd (c : Context) (s : State) : (setCtx c s).cmd = s.cmd := rfl
@[simp] theorem setCtx_resp (c : Context) (s : State) : (setCtx c s).resp = s.resp := rfl
@[simp] theorem setCtx_trace (c : Context) (s : State) : (setCtx c s).trace = s.trace := rfl
@[simp] theorem setCtx_env (c : Context) (s : State) : (setCtx c s).env = s.env := rfl

/-! ## lineWrite -/

@[simp] theorem lineWrite_cfg (id : LineId) (v : Level) (s : State) : (lineWrite id v s).cfg = s.cfg := rfl
@[simp] theorem lineWrite_ctx (id : LineId) (v : Level) (s : State) : (lineWrite id v s).ctx = s.ctx := rfl
@[simp] theorem lineWrite_armed (id : LineId) (v : Level) (s : State) : (lineWrite id v s).armed = s.armed := rfl
@[simp] theorem lineWrite_irqPending (id : LineId) (v : Level) (s : State) : (lineWrite id v s).irqPending = s.irqPending := rfl
@[simp] theorem lineWrite_sdaDrv (id : LineId) (v : Level) (s : State) : (lineWrite id v s).sdaDrv = if id = busDataLine s then some v else s.sdaDrv := rfl
@[simp] theorem lineWrite_sclDrv (id : LineId) (v : Level) (s : State) : (lineWrite id v s).sclDrv = if id = busClockLine s then some v else s.sclDrv := rfl
@[simp] theorem lineWrite_upc (id : LineId) (v : Level) (s : State) : (lineWrite id v s).upc = s.upc := rfl
@[simp] theorem lineWrite_txbyte (id : LineId) (v : Level) (s : State) : (lineWrite id v s).txbyte = s.txbyte := rfl
@[simp] theorem lineWrite_bitidx (id : LineId) (v : Level) (s : State) : (lineWrite id v s).bitidx = s.bitidx := rfl
@[simp] theorem lineWrite_ret (id : LineId) (v : Level) (s : State) : (lineWrite id v s).ret = s.ret := rfl
@[simp] theorem lineWrite_acked (id : LineId) (v : Level) (s : State) : (lineWrite id v s).acked = s.acked := rfl
@[simp] theorem lineWrite_result (id : LineId) (v : Level) (s : State) : (lineWrite id v s).result = s.result := rfl
@[simp] theorem lineWrite_cmd (id : LineId) (v : Level) (s : State) : (lineWrite id v s).cmd = s.cmd := rfl
@[simp] theorem lineWrite_resp (id : LineId) (v : Level) (s : State) : (lineWrite id v s).resp = s.resp := rfl
@[simp] theorem lineWrite_trace (id : LineId) (v : Level) (s : State) : (lineWrite id v s).trace = s.trace ++ [.lineWrite id v] := rfl
@[simp] theorem lineWrite_env (id : LineId) (v : Level) (s : State) : (lineWrite id v s).env = s.env := rfl

/-! ## delay -/

@[simp] theorem delay_cfg (n : Interval) (s : State) : (delay n s).cfg = s.cfg := rfl
@[simp] theorem delay_ctx (n : Interval) (s : State) : (delay n s).ctx = s.ctx := rfl
@[simp] theorem delay_armed (n : Interval) (s : State) : (delay n s).armed = s.armed := rfl
@[simp] theorem delay_irqPending (n : Interval) (s : State) : (delay n s).irqPending = s.irqPending := rfl
@[simp] theorem delay_sdaDrv (n : Interval) (s : State) : (delay n s).sdaDrv = s.sdaDrv := rfl
@[simp] theorem delay_sclDrv (n : Interval) (s : State) : (delay n s).sclDrv = s.sclDrv := rfl
@[simp] theorem delay_upc (n : Interval) (s : State) : (delay n s).upc = s.upc := rfl
@[simp] theorem delay_txbyte (n : Interval) (s : State) : (delay n s).txbyte = s.txbyte := rfl
@[simp] theorem delay_bitidx (n : Interval) (s : State) : (delay n s).bitidx = s.bitidx := rfl
@[simp] theorem delay_ret (n : Interval) (s : State) : (delay n s).ret = s.ret := rfl
@[simp] theorem delay_acked (n : Interval) (s : State) : (delay n s).acked = s.acked := rfl
@[simp] theorem delay_result (n : Interval) (s : State) : (delay n s).result = s.result := rfl
@[simp] theorem delay_cmd (n : Interval) (s : State) : (delay n s).cmd = s.cmd := rfl
@[simp] theorem delay_resp (n : Interval) (s : State) : (delay n s).resp = s.resp := rfl
@[simp] theorem delay_trace (n : Interval) (s : State) : (delay n s).trace = s.trace ++ [.delay n] := rfl
@[simp] theorem delay_env (n : Interval) (s : State) : (delay n s).env = s.env := rfl

/-! ## enterSendByte -/

@[simp] theorem enterSendByte_cfg (b : Byte) (r : ReturnLabel) (s : State) : (enterSendByte b r s).cfg = s.cfg := rfl
@[simp] theorem enterSendByte_ctx (b : Byte) (r : ReturnLabel) (s : State) : (enterSendByte b r s).ctx = s.ctx := rfl
@[simp] theorem enterSendByte_armed (b : Byte) (r : ReturnLabel) (s : State) : (enterSendByte b r s).armed = s.armed := rfl
@[simp] theorem enterSendByte_irqPending (b : Byte) (r : ReturnLabel) (s : State) : (enterSendByte b r s).irqPending = s.irqPending := rfl
@[simp] theorem enterSendByte_sdaDrv (b : Byte) (r : ReturnLabel) (s : State) : (enterSendByte b r s).sdaDrv = s.sdaDrv := rfl
@[simp] theorem enterSendByte_sclDrv (b : Byte) (r : ReturnLabel) (s : State) : (enterSendByte b r s).sclDrv = s.sclDrv := rfl
@[simp] theorem enterSendByte_upc (b : Byte) (r : ReturnLabel) (s : State) : (enterSendByte b r s).upc = .b0 := rfl
@[simp] theorem enterSendByte_txbyte (b : Byte) (r : ReturnLabel) (s : State) : (enterSendByte b r s).txbyte = b := rfl
@[simp] theorem enterSendByte_bitidx (b : Byte) (r : ReturnLabel) (s : State) : (enterSendByte b r s).bitidx = 7 := rfl
@[simp] theorem enterSendByte_ret (b : Byte) (r : ReturnLabel) (s : State) : (enterSendByte b r s).ret = r := rfl
@[simp] theorem enterSendByte_acked (b : Byte) (r : ReturnLabel) (s : State) : (enterSendByte b r s).acked = s.acked := rfl
@[simp] theorem enterSendByte_result (b : Byte) (r : ReturnLabel) (s : State) : (enterSendByte b r s).result = s.result := rfl
@[simp] theorem enterSendByte_cmd (b : Byte) (r : ReturnLabel) (s : State) : (enterSendByte b r s).cmd = s.cmd := rfl
@[simp] theorem enterSendByte_resp (b : Byte) (r : ReturnLabel) (s : State) : (enterSendByte b r s).resp = s.resp := rfl
@[simp] theorem enterSendByte_trace (b : Byte) (r : ReturnLabel) (s : State) : (enterSendByte b r s).trace = s.trace := rfl
@[simp] theorem enterSendByte_env (b : Byte) (r : ReturnLabel) (s : State) : (enterSendByte b r s).env = s.env := rfl

/-! ## accept -/

@[simp] theorem accept_cfg (w : Word) (l : Label) (s : State) : (accept w l s).cfg = s.cfg := rfl
@[simp] theorem accept_ctx (w : Word) (l : Label) (s : State) : (accept w l s).ctx = s.ctx := rfl
@[simp] theorem accept_armed (w : Word) (l : Label) (s : State) : (accept w l s).armed = s.armed := rfl
@[simp] theorem accept_irqPending (w : Word) (l : Label) (s : State) : (accept w l s).irqPending = s.irqPending := rfl
@[simp] theorem accept_sdaDrv (w : Word) (l : Label) (s : State) : (accept w l s).sdaDrv = s.sdaDrv := rfl
@[simp] theorem accept_sclDrv (w : Word) (l : Label) (s : State) : (accept w l s).sclDrv = s.sclDrv := rfl
@[simp] theorem accept_upc (w : Word) (l : Label) (s : State) : (accept w l s).upc = l := rfl
@[simp] theorem accept_txbyte (w : Word) (l : Label) (s : State) : (accept w l s).txbyte = s.txbyte := rfl
@[simp] theorem accept_bitidx (w : Word) (l : Label) (s : State) : (accept w l s).bitidx = s.bitidx := rfl
@[simp] theorem accept_ret (w : Word) (l : Label) (s : State) : (accept w l s).ret = s.ret := rfl
@[simp] theorem accept_acked (w : Word) (l : Label) (s : State) : (accept w l s).acked = s.acked := rfl
@[simp] theorem accept_result (w : Word) (l : Label) (s : State) : (accept w l s).result = s.result := rfl
@[simp] theorem accept_cmd (w : Word) (l : Label) (s : State) : (accept w l s).cmd = w := rfl
@[simp] theorem accept_resp (w : Word) (l : Label) (s : State) : (accept w l s).resp = s.resp := rfl
@[simp] theorem accept_trace (w : Word) (l : Label) (s : State) : (accept w l s).trace = s.trace ++ [.cmd w] := rfl
@[simp] theorem accept_env (w : Word) (l : Label) (s : State) : (accept w l s).env = s.env := rfl

/-! ## raiseEdge -/

@[simp] theorem raiseEdge_cfg (s : State) : (raiseEdge s).cfg = s.cfg := rfl
@[simp] theorem raiseEdge_ctx (s : State) : (raiseEdge s).ctx = s.ctx := rfl
@[simp] theorem raiseEdge_armed (s : State) : (raiseEdge s).armed = s.armed := rfl
@[simp] theorem raiseEdge_irqPending (s : State) : (raiseEdge s).irqPending = (s.irqPending || s.armed) := rfl
@[simp] theorem raiseEdge_sdaDrv (s : State) : (raiseEdge s).sdaDrv = s.sdaDrv := rfl
@[simp] theorem raiseEdge_sclDrv (s : State) : (raiseEdge s).sclDrv = s.sclDrv := rfl
@[simp] theorem raiseEdge_upc (s : State) : (raiseEdge s).upc = s.upc := rfl
@[simp] theorem raiseEdge_txbyte (s : State) : (raiseEdge s).txbyte = s.txbyte := rfl
@[simp] theorem raiseEdge_bitidx (s : State) : (raiseEdge s).bitidx = s.bitidx := rfl
@[simp] theorem raiseEdge_ret (s : State) : (raiseEdge s).ret = s.ret := rfl
@[simp] theorem raiseEdge_acked (s : State) : (raiseEdge s).acked = s.acked := rfl
@[simp] theorem raiseEdge_result (s : State) : (raiseEdge s).result = s.result := rfl
@[simp] theorem raiseEdge_cmd (s : State) : (raiseEdge s).cmd = s.cmd := rfl
@[simp] theorem raiseEdge_resp (s : State) : (raiseEdge s).resp = s.resp := rfl
@[simp] theorem raiseEdge_trace (s : State) : (raiseEdge s).trace = s.trace ++ [.edge] := rfl
@[simp] theorem raiseEdge_env (s : State) : (raiseEdge s).env = s.env := rfl

/-! ## setArmed -/

@[simp] theorem setArmed_cfg (s : State) : (setArmed s).cfg = s.cfg := rfl
@[simp] theorem setArmed_ctx (s : State) : (setArmed s).ctx = s.ctx := rfl
@[simp] theorem setArmed_armed (s : State) : (setArmed s).armed = true := rfl
@[simp] theorem setArmed_irqPending (s : State) : (setArmed s).irqPending = s.irqPending := rfl
@[simp] theorem setArmed_sdaDrv (s : State) : (setArmed s).sdaDrv = s.sdaDrv := rfl
@[simp] theorem setArmed_sclDrv (s : State) : (setArmed s).sclDrv = s.sclDrv := rfl
@[simp] theorem setArmed_upc (s : State) : (setArmed s).upc = s.upc := rfl
@[simp] theorem setArmed_txbyte (s : State) : (setArmed s).txbyte = s.txbyte := rfl
@[simp] theorem setArmed_bitidx (s : State) : (setArmed s).bitidx = s.bitidx := rfl
@[simp] theorem setArmed_ret (s : State) : (setArmed s).ret = s.ret := rfl
@[simp] theorem setArmed_acked (s : State) : (setArmed s).acked = s.acked := rfl
@[simp] theorem setArmed_result (s : State) : (setArmed s).result = s.result := rfl
@[simp] theorem setArmed_cmd (s : State) : (setArmed s).cmd = s.cmd := rfl
@[simp] theorem setArmed_resp (s : State) : (setArmed s).resp = s.resp := rfl
@[simp] theorem setArmed_trace (s : State) : (setArmed s).trace = s.trace := rfl
@[simp] theorem setArmed_env (s : State) : (setArmed s).env = s.env := rfl

/-! ## disarm -/

@[simp] theorem disarm_cfg (s : State) : (disarm s).cfg = s.cfg := rfl
@[simp] theorem disarm_ctx (s : State) : (disarm s).ctx = s.ctx := rfl
@[simp] theorem disarm_armed (s : State) : (disarm s).armed = false := rfl
@[simp] theorem disarm_irqPending (s : State) : (disarm s).irqPending = false := rfl
@[simp] theorem disarm_sdaDrv (s : State) : (disarm s).sdaDrv = s.sdaDrv := rfl
@[simp] theorem disarm_sclDrv (s : State) : (disarm s).sclDrv = s.sclDrv := rfl
@[simp] theorem disarm_upc (s : State) : (disarm s).upc = s.upc := rfl
@[simp] theorem disarm_txbyte (s : State) : (disarm s).txbyte = s.txbyte := rfl
@[simp] theorem disarm_bitidx (s : State) : (disarm s).bitidx = s.bitidx := rfl
@[simp] theorem disarm_ret (s : State) : (disarm s).ret = s.ret := rfl
@[simp] theorem disarm_acked (s : State) : (disarm s).acked = s.acked := rfl
@[simp] theorem disarm_result (s : State) : (disarm s).result = s.result := rfl
@[simp] theorem disarm_cmd (s : State) : (disarm s).cmd = s.cmd := rfl
@[simp] theorem disarm_resp (s : State) : (disarm s).resp = s.resp := rfl
@[simp] theorem disarm_trace (s : State) : (disarm s).trace = if s.armed then s.trace ++ [.disarm] else s.trace := rfl
@[simp] theorem disarm_env (s : State) : (disarm s).env = s.env := rfl

/-! ## sampleAck -/

@[simp] theorem sampleAck_cfg (c : Context) (s : State) : (sampleAck c s).cfg = s.cfg := rfl
@[simp] theorem sampleAck_ctx (c : Context) (s : State) : (sampleAck c s).ctx = s.ctx := rfl
@[simp] theorem sampleAck_armed (c : Context) (s : State) : (sampleAck c s).armed = s.armed := rfl
@[simp] theorem sampleAck_irqPending (c : Context) (s : State) : (sampleAck c s).irqPending = s.irqPending := rfl
@[simp] theorem sampleAck_sdaDrv (c : Context) (s : State) : (sampleAck c s).sdaDrv = s.sdaDrv := rfl
@[simp] theorem sampleAck_sclDrv (c : Context) (s : State) : (sampleAck c s).sclDrv = s.sclDrv := rfl
@[simp] theorem sampleAck_upc (c : Context) (s : State) : (sampleAck c s).upc = s.upc := rfl
@[simp] theorem sampleAck_txbyte (c : Context) (s : State) : (sampleAck c s).txbyte = s.txbyte := rfl
@[simp] theorem sampleAck_bitidx (c : Context) (s : State) : (sampleAck c s).bitidx = s.bitidx := rfl
@[simp] theorem sampleAck_ret (c : Context) (s : State) : (sampleAck c s).ret = s.ret := rfl
@[simp] theorem sampleAck_acked (c : Context) (s : State) : (sampleAck c s).acked = (c.state != .ackWait) := rfl
@[simp] theorem sampleAck_result (c : Context) (s : State) : (sampleAck c s).result = s.result := rfl
@[simp] theorem sampleAck_cmd (c : Context) (s : State) : (sampleAck c s).cmd = s.cmd := rfl
@[simp] theorem sampleAck_resp (c : Context) (s : State) : (sampleAck c s).resp = s.resp := rfl
@[simp] theorem sampleAck_trace (c : Context) (s : State) : (sampleAck c s).trace = s.trace := rfl
@[simp] theorem sampleAck_env (c : Context) (s : State) : (sampleAck c s).env = s.env := rfl

/-! ## dropTurn -/

@[simp] theorem dropTurn_cfg (s : State) : (dropTurn s).cfg = s.cfg := rfl
@[simp] theorem dropTurn_ctx (s : State) : (dropTurn s).ctx = s.ctx := rfl
@[simp] theorem dropTurn_armed (s : State) : (dropTurn s).armed = s.armed := rfl
@[simp] theorem dropTurn_irqPending (s : State) : (dropTurn s).irqPending = s.irqPending := rfl
@[simp] theorem dropTurn_sdaDrv (s : State) : (dropTurn s).sdaDrv = s.sdaDrv := rfl
@[simp] theorem dropTurn_sclDrv (s : State) : (dropTurn s).sclDrv = s.sclDrv := rfl
@[simp] theorem dropTurn_upc (s : State) : (dropTurn s).upc = s.upc := rfl
@[simp] theorem dropTurn_txbyte (s : State) : (dropTurn s).txbyte = s.txbyte := rfl
@[simp] theorem dropTurn_bitidx (s : State) : (dropTurn s).bitidx = s.bitidx := rfl
@[simp] theorem dropTurn_ret (s : State) : (dropTurn s).ret = s.ret := rfl
@[simp] theorem dropTurn_acked (s : State) : (dropTurn s).acked = s.acked := rfl
@[simp] theorem dropTurn_result (s : State) : (dropTurn s).result = s.result := rfl
@[simp] theorem dropTurn_cmd (s : State) : (dropTurn s).cmd = s.cmd := rfl
@[simp] theorem dropTurn_resp (s : State) : (dropTurn s).resp = s.resp := rfl
@[simp] theorem dropTurn_trace (s : State) : (dropTurn s).trace = s.trace := rfl
@[simp] theorem dropTurn_env (s : State) : (dropTurn s).env = { s.env with turns := s.env.turns.tail } := rfl

/-! ## releaseCtx -/

@[simp] theorem releaseCtx_cfg (s : State) : (releaseCtx s).cfg = s.cfg := rfl
@[simp] theorem releaseCtx_ctx (s : State) : (releaseCtx s).ctx = none := rfl
@[simp] theorem releaseCtx_armed (s : State) : (releaseCtx s).armed = s.armed := rfl
@[simp] theorem releaseCtx_irqPending (s : State) : (releaseCtx s).irqPending = s.irqPending := rfl
@[simp] theorem releaseCtx_sdaDrv (s : State) : (releaseCtx s).sdaDrv = s.sdaDrv := rfl
@[simp] theorem releaseCtx_sclDrv (s : State) : (releaseCtx s).sclDrv = s.sclDrv := rfl
@[simp] theorem releaseCtx_upc (s : State) : (releaseCtx s).upc = s.upc := rfl
@[simp] theorem releaseCtx_txbyte (s : State) : (releaseCtx s).txbyte = s.txbyte := rfl
@[simp] theorem releaseCtx_bitidx (s : State) : (releaseCtx s).bitidx = s.bitidx := rfl
@[simp] theorem releaseCtx_ret (s : State) : (releaseCtx s).ret = s.ret := rfl
@[simp] theorem releaseCtx_acked (s : State) : (releaseCtx s).acked = s.acked := rfl
@[simp] theorem releaseCtx_result (s : State) : (releaseCtx s).result = s.result := rfl
@[simp] theorem releaseCtx_cmd (s : State) : (releaseCtx s).cmd = s.cmd := rfl
@[simp] theorem releaseCtx_resp (s : State) : (releaseCtx s).resp = s.resp := rfl
@[simp] theorem releaseCtx_trace (s : State) : (releaseCtx s).trace = s.trace := rfl
@[simp] theorem releaseCtx_env (s : State) : (releaseCtx s).env = s.env := rfl

/-! ## setBitidx -/

@[simp] theorem setBitidx_cfg (n : Fin 8) (s : State) : (setBitidx n s).cfg = s.cfg := rfl
@[simp] theorem setBitidx_ctx (n : Fin 8) (s : State) : (setBitidx n s).ctx = s.ctx := rfl
@[simp] theorem setBitidx_armed (n : Fin 8) (s : State) : (setBitidx n s).armed = s.armed := rfl
@[simp] theorem setBitidx_irqPending (n : Fin 8) (s : State) : (setBitidx n s).irqPending = s.irqPending := rfl
@[simp] theorem setBitidx_sdaDrv (n : Fin 8) (s : State) : (setBitidx n s).sdaDrv = s.sdaDrv := rfl
@[simp] theorem setBitidx_sclDrv (n : Fin 8) (s : State) : (setBitidx n s).sclDrv = s.sclDrv := rfl
@[simp] theorem setBitidx_upc (n : Fin 8) (s : State) : (setBitidx n s).upc = s.upc := rfl
@[simp] theorem setBitidx_txbyte (n : Fin 8) (s : State) : (setBitidx n s).txbyte = s.txbyte := rfl
@[simp] theorem setBitidx_bitidx (n : Fin 8) (s : State) : (setBitidx n s).bitidx = n := rfl
@[simp] theorem setBitidx_ret (n : Fin 8) (s : State) : (setBitidx n s).ret = s.ret := rfl
@[simp] theorem setBitidx_acked (n : Fin 8) (s : State) : (setBitidx n s).acked = s.acked := rfl
@[simp] theorem setBitidx_result (n : Fin 8) (s : State) : (setBitidx n s).result = s.result := rfl
@[simp] theorem setBitidx_cmd (n : Fin 8) (s : State) : (setBitidx n s).cmd = s.cmd := rfl
@[simp] theorem setBitidx_resp (n : Fin 8) (s : State) : (setBitidx n s).resp = s.resp := rfl
@[simp] theorem setBitidx_trace (n : Fin 8) (s : State) : (setBitidx n s).trace = s.trace := rfl
@[simp] theorem setBitidx_env (n : Fin 8) (s : State) : (setBitidx n s).env = s.env := rfl

/-! ## setResult -/

@[simp] theorem setResult_cfg (st : Status) (s : State) : (setResult st s).cfg = s.cfg := rfl
@[simp] theorem setResult_ctx (st : Status) (s : State) : (setResult st s).ctx = s.ctx := rfl
@[simp] theorem setResult_armed (st : Status) (s : State) : (setResult st s).armed = s.armed := rfl
@[simp] theorem setResult_irqPending (st : Status) (s : State) : (setResult st s).irqPending = s.irqPending := rfl
@[simp] theorem setResult_sdaDrv (st : Status) (s : State) : (setResult st s).sdaDrv = s.sdaDrv := rfl
@[simp] theorem setResult_sclDrv (st : Status) (s : State) : (setResult st s).sclDrv = s.sclDrv := rfl
@[simp] theorem setResult_upc (st : Status) (s : State) : (setResult st s).upc = s.upc := rfl
@[simp] theorem setResult_txbyte (st : Status) (s : State) : (setResult st s).txbyte = s.txbyte := rfl
@[simp] theorem setResult_bitidx (st : Status) (s : State) : (setResult st s).bitidx = s.bitidx := rfl
@[simp] theorem setResult_ret (st : Status) (s : State) : (setResult st s).ret = s.ret := rfl
@[simp] theorem setResult_acked (st : Status) (s : State) : (setResult st s).acked = s.acked := rfl
@[simp] theorem setResult_result (st : Status) (s : State) : (setResult st s).result = st := rfl
@[simp] theorem setResult_cmd (st : Status) (s : State) : (setResult st s).cmd = s.cmd := rfl
@[simp] theorem setResult_resp (st : Status) (s : State) : (setResult st s).resp = s.resp := rfl
@[simp] theorem setResult_trace (st : Status) (s : State) : (setResult st s).trace = s.trace := rfl
@[simp] theorem setResult_env (st : Status) (s : State) : (setResult st s).env = s.env := rfl

/-! ## presentWord -/

@[simp] theorem presentWord_cfg (w : Word) (s : State) : (presentWord w s).cfg = s.cfg := rfl
@[simp] theorem presentWord_ctx (w : Word) (s : State) : (presentWord w s).ctx = s.ctx := rfl
@[simp] theorem presentWord_armed (w : Word) (s : State) : (presentWord w s).armed = s.armed := rfl
@[simp] theorem presentWord_irqPending (w : Word) (s : State) : (presentWord w s).irqPending = s.irqPending := rfl
@[simp] theorem presentWord_sdaDrv (w : Word) (s : State) : (presentWord w s).sdaDrv = s.sdaDrv := rfl
@[simp] theorem presentWord_sclDrv (w : Word) (s : State) : (presentWord w s).sclDrv = s.sclDrv := rfl
@[simp] theorem presentWord_upc (w : Word) (s : State) : (presentWord w s).upc = s.upc := rfl
@[simp] theorem presentWord_txbyte (w : Word) (s : State) : (presentWord w s).txbyte = s.txbyte := rfl
@[simp] theorem presentWord_bitidx (w : Word) (s : State) : (presentWord w s).bitidx = s.bitidx := rfl
@[simp] theorem presentWord_ret (w : Word) (s : State) : (presentWord w s).ret = s.ret := rfl
@[simp] theorem presentWord_acked (w : Word) (s : State) : (presentWord w s).acked = s.acked := rfl
@[simp] theorem presentWord_result (w : Word) (s : State) : (presentWord w s).result = s.result := rfl
@[simp] theorem presentWord_cmd (w : Word) (s : State) : (presentWord w s).cmd = s.cmd := rfl
@[simp] theorem presentWord_resp (w : Word) (s : State) : (presentWord w s).resp = s.resp := rfl
@[simp] theorem presentWord_trace (w : Word) (s : State) : (presentWord w s).trace = s.trace := rfl
@[simp] theorem presentWord_env (w : Word) (s : State) : (presentWord w s).env = { s.env with turns := .command w :: s.env.turns } := rfl

/-! ## Line writes: write then write, and writes to different lines -/

/-- On a line of its own the data shadow is the level written (R32, R52). -/
theorem lineWrite_data (s : State) (v : Level) : (lineWrite (busDataLine s) v s).sdaDrv = some v := by simp

/-- A write to the clock line leaves the shadow of another data line alone (R32). -/
theorem lineWrite_clock_sdaDrv (s : State) (v : Level) (h : busClockLine s ≠ busDataLine s) :
    (lineWrite (busClockLine s) v s).sdaDrv = s.sdaDrv := by simp [h]

/-- A write to the data line leaves the shadow of another clock line alone (R32). -/
theorem lineWrite_data_sclDrv (s : State) (v : Level) (h : busClockLine s ≠ busDataLine s) :
    (lineWrite (busDataLine s) v s).sclDrv = s.sclDrv := by simp [Ne.symm h]

/-- The clock shadow is the level written (R32, R52). -/
theorem lineWrite_clock (s : State) (v : Level) : (lineWrite (busClockLine s) v s).sclDrv = some v := by simp

end Sys2Proof.Machine
end

