-- ==== Sys2Proof/Laws/Environment.lean ====
section
/-! SUPPORT. What the environment and the handler can do (R42), said once for each of their operations, and the
foreground's view of the machine, which they change only through the shared data. -/

namespace Sys2Proof.Machine

/-! ## The foreground's part of the trace -/

/-- Appending a foreground event. -/
theorem filter_append_foreground (l : List Event) (e : Event) (h : foregroundEvent e = true) :
    (l ++ [e]).filter foregroundEvent = l.filter foregroundEvent ++ [e] := by
  simp [List.filter_append, h]

/-- Appending an edge or a handler run leaves the foreground's part as it is. -/
theorem filter_append_other (l : List Event) (e : Event) (h : foregroundEvent e = false) :
    (l ++ [e]).filter foregroundEvent = l.filter foregroundEvent := by
  simp [List.filter_append, h]

/-! ## What the operations of the other agents change -/

/-- An edge changes only the pending bit and the trace. -/
theorem raiseEdge_eq (s : State) :
    raiseEdge s = { s with irqPending := s.irqPending || s.armed, trace := s.trace ++ [.edge] } := rfl

/-- A handler run that finds no `AckWait` clears the pending bit and records itself (R151). -/
theorem ackIrq_ignored (s : State) (c : Context) (hc : s.ctx = some c) (hs : c.state ≠ .ackWait) :
    ackIrq s = { s with irqPending := false, trace := s.trace ++ [.irq .ignored] } := by
  simp [ackIrq, withCtx, hc, hs, logEvent]

/-- Serving where the handler is not enabled changes nothing. -/
theorem serveIfEnabled_disabled (s : State) (h : handlerEnabled s = false) : serveIfEnabled s = s := by
  simp [serveIfEnabled, h]

/-- A disarmed interrupt is never served. -/
theorem serveIfEnabled_disarmed (s : State) (h : s.armed = false) : serveIfEnabled s = s := by
  simp [serveIfEnabled, handlerEnabled, h]

/-! ## The foreground's view -/

/-- The state as the foreground sees it: without the pending bit and without the edges and handler runs of the trace.
The foreground reads neither. -/
def fgView (s : State) : State :=
  { s with irqPending := false, trace := fgTrace s }

/-- One boundary's entry of the script is used. -/
def dropMoves (s : State) : State :=
  { s with env := afterMoves 1 s.env }

/-- Outside `AckWait` the handler's runs do not reach the foreground's view. -/
theorem fgView_serveIfEnabled (s : State) (h : ∀ c, s.ctx = some c → c.state ≠ .ackWait) :
    fgView (serveIfEnabled s) = fgView s := by
  unfold serveIfEnabled
  split
  · cases hc : s.ctx with
    | none => simp [ackIrq, withCtx, hc, fgView, fgTrace]
    | some c =>
      rw [ackIrq_ignored s c hc (h c hc)]
      simp [fgView, fgTrace, foregroundEvent, List.filter_append]
  · rfl

/-- Nor do its moves, edges included. -/
theorem fgView_applyMove (m : Move) (s : State) (h : ∀ c, s.ctx = some c → c.state ≠ .ackWait) :
    fgView (applyMove m s) = fgView s := by
  cases m with
  | edge => simp [applyMove, raiseEdge, fgView, fgTrace, foregroundEvent, List.filter_append]
  | serve => exact fgView_serveIfEnabled s h

/-- The view holds the context. -/
theorem ctx_of_fgView {s t : State} (h : fgView s = fgView t) : s.ctx = t.ctx := congrArg (·.ctx) h

/-- Nor does a list of moves. -/
theorem fgView_applyMoves (ms : List Move) (s : State) (h : ∀ c, s.ctx = some c → c.state ≠ .ackWait) :
    fgView (applyMoves ms s) = fgView s := by
  induction ms generalizing s with
  | nil => rfl
  | cons m ms ih =>
    have hm := fgView_applyMove m s h
    have h' : ∀ c, (applyMove m s).ctx = some c → c.state ≠ .ackWait := by
      rw [ctx_of_fgView hm]; exact h
    exact (ih _ h').trans hm

/-- Outside `AckWait` a whole boundary shows the foreground nothing but a used entry of the script. -/
theorem fgView_boundary (s : State) (h : ∀ c, s.ctx = some c → c.state ≠ .ackWait) :
    fgView (boundary s) = fgView (dropMoves s) := by
  have hm := fgView_applyMoves (s.env.moves.headD []) (dropMoves s) h
  have h' : ∀ c, (applyMoves (s.env.moves.headD []) (dropMoves s)).ctx = some c → c.state ≠ .ackWait := by
    rw [ctx_of_fgView hm]; exact h
  have hd : dropMoves s = { s with env := { s.env with moves := s.env.moves.tail } } := by
    simp [dropMoves, afterMoves]
  unfold boundary servicePending
  rw [← hd]
  split
  · exact (fgView_serveIfEnabled _ h').trans hm
  · exact hm

end Sys2Proof.Machine
end

