-- ==== Sys2Proof/Laws/Run.lean ====
section
/-! SUPPORT. Runs of micro-steps: how they compose, and that `Idle` is where they stop. -/

namespace Sys2Proof.Machine

@[simp] theorem ticks_zero (s : State) : ticks 0 s = s := rfl

theorem ticks_succ (n : Nat) (s : State) : ticks (n + 1) s = ticks n (tick s) := rfl

/-- Runs compose. -/
theorem ticks_add (m n : Nat) (s : State) : ticks (m + n) s = ticks n (ticks m s) := by
  induction m generalizing s with
  | zero => simp
  | succ m ih => rw [Nat.succ_add, ticks_succ, ticks_succ, ih]

/-- At `Idle` the foreground makes no micro-step. -/
theorem tick_idle (s : State) (h : s.upc = .idle) : tick s = s := by
  simp [tick, h]

/-- Elsewhere a boundary comes first and then the micro-step. -/
theorem tick_busy (s : State) (h : s.upc ≠ .idle) : tick s = fgStep (boundary s) := by
  unfold tick
  split
  · exact absurd ‹_› h
  · rfl

/-- A run stays at `Idle`. -/
theorem ticks_idle (n : Nat) (s : State) (h : s.upc = .idle) : ticks n s = s := by
  induction n with
  | zero => rfl
  | succ n ih => rw [ticks_succ, tick_idle s h, ih]

/-- At `Idle` there is no command to finish. -/
theorem finish_idle (s : State) (h : s.upc = .idle) : finish s = s := ticks_idle _ s h

/-- A run that is idle after `m` micro-steps is finished by them. -/
theorem ticks_of_idle {m n : Nat} {s t : State} (hmn : m ≤ n) (h : ticks m s = t) (ht : t.upc = .idle) :
    ticks n s = t := by
  obtain ⟨k, rfl⟩ := Nat.exists_eq_add_of_le hmn
  rw [ticks_add, h, ticks_idle k t ht]

/-- An idle state has lost no context. -/
@[simp] theorem lostContext_idle (s : State) (h : s.upc = .idle) : lostContext s = false := by
  simp [lostContext, needsContext, h]

/-- A command word presented at `Idle` is accepted at once (R70). -/
theorem runCommand_idle (w : Word) (first : Label) (s : State) (h : s.upc = .idle) :
    runCommand w first s = .next (finish (accept w first s)) := by
  simp [runCommand, h, finish_idle]

/-- A command whose run is idle after `m` micro-steps, at most 39, ends in the state it then has. -/
theorem runCommand_of_ticks {w : Word} {first : Label} {s t : State} {m : Nat} (hm : m ≤ 39) (h : s.upc = .idle)
    (ht : ticks m (accept w first s) = t) (hi : t.upc = .idle) : runCommand w first s = .next t := by
  rw [runCommand_idle w first s h]
  exact congrArg _ (ticks_of_idle hm ht hi)

end Sys2Proof.Machine
end

