-- ==== Sys2Proof/Laws/Lazy.lean ====
section
/-! SUPPORT. Runs of steps, and how the operations of the machine commute with the switch to lazy service: the foreground
reads neither the switch nor the script of moves, and a boundary under prompt service is one under lazy service whose moves
end in a run of the handler (R193, R199). -/

namespace Sys2Proof.Machine

/-! ## Runs of steps -/

@[simp] theorem mapNext_next (f : State → State) (s : State) : mapNext f (.next s) = .next (f s) := rfl
@[simp] theorem mapNext_fault (f : State → State) (r : Fault) : mapNext f (.fault r) = .fault r := rfl
@[simp] theorem mapNext_refused (f : State → State) (r : Refusal) : mapNext f (.refused r) = .refused r := rfl

@[simp] theorem steps_zero (s : State) : steps 0 s = .next s := rfl

/-- A run whose first step answers a next state goes on from there. -/
theorem steps_succ_next {n : Nat} {s t : State} (h : step s = .next t) : steps (n + 1) s = steps n t := by
  simp [steps, h]

/-- A run whose first step faults has ended there. -/
theorem steps_succ_fault {n : Nat} {s : State} {r : Fault} (h : step s = .fault r) : steps (n + 1) s = .fault r := by
  simp [steps, h]

/-! ## The fields under lazy service -/

@[simp] theorem underLazy_ctx (ms : List (List Move)) (s : State) : (underLazy ms s).ctx = s.ctx := rfl
@[simp] theorem underLazy_upc (ms : List (List Move)) (s : State) : (underLazy ms s).upc = s.upc := rfl
@[simp] theorem underLazy_armed (ms : List (List Move)) (s : State) : (underLazy ms s).armed = s.armed := rfl
@[simp] theorem underLazy_irqPending (ms : List (List Move)) (s : State) :
    (underLazy ms s).irqPending = s.irqPending := rfl
@[simp] theorem underLazy_moves (ms : List (List Move)) (s : State) : (underLazy ms s).env.moves = ms := rfl
@[simp] theorem underLazy_turns (ms : List (List Move)) (s : State) : (underLazy ms s).env.turns = s.env.turns := rfl
@[simp] theorem underLazy_irqService (ms : List (List Move)) (s : State) :
    (underLazy ms s).cfg.irqService = .lazy := rfl
@[simp] theorem lostContext_underLazy (ms : List (List Move)) (s : State) :
    lostContext (underLazy ms s) = lostContext s := rfl

/-! ## The environment and the handler -/

theorem raiseEdge_underLazy (ms : List (List Move)) (s : State) :
    raiseEdge (underLazy ms s) = underLazy ms (raiseEdge s) := rfl

theorem ackIrq_underLazy (ms : List (List Move)) (s : State) :
    ackIrq (underLazy ms s) = underLazy ms (ackIrq s) := by
  unfold ackIrq withCtx
  simp only [underLazy_ctx]
  cases s.ctx with
  | none => rfl
  | some c => by_cases h : c.state = .ackWait <;> simp only [h, if_true, if_false] <;> rfl

theorem serveIfEnabled_underLazy (ms : List (List Move)) (s : State) :
    serveIfEnabled (underLazy ms s) = underLazy ms (serveIfEnabled s) := by
  have h : handlerEnabled (underLazy ms s) = handlerEnabled s := rfl
  unfold serveIfEnabled
  rw [h, ackIrq_underLazy]
  split <;> rfl

theorem applyMoves_underLazy (l : List Move) (ms : List (List Move)) (s : State) :
    applyMoves l (underLazy ms s) = underLazy ms (applyMoves l s) := by
  induction l generalizing s with
  | nil => rfl
  | cons m l ih =>
    cases m with
    | edge => exact ih (raiseEdge s)
    | serve =>
      have h := ih (serveIfEnabled s)
      rw [← serveIfEnabled_underLazy] at h
      exact h

/-- No move changes the service discipline. -/
theorem irqService_applyMoves (l : List Move) (s : State) :
    (applyMoves l s).cfg.irqService = s.cfg.irqService := by
  have hs : ∀ t : State, (serveIfEnabled t).cfg = t.cfg := by
    intro t
    unfold serveIfEnabled ackIrq withCtx
    split
    · cases t.ctx with
      | none => rfl
      | some c => by_cases h : c.state = .ackWait <;> simp only [h, if_true, if_false] <;> rfl
    · rfl
  induction l generalizing s with
  | nil => rfl
  | cons m l ih =>
    cases m with
    | edge => exact ih (raiseEdge s)
    | serve => exact (ih (serveIfEnabled s)).trans (congrArg _ (hs s))

/-- A boundary under prompt service is the boundary under lazy service whose entry of the script ends in a run of the
handler (R193, R199). -/
theorem boundary_underLazy (rest : List (List Move)) (s : State) (h : s.cfg.irqService = .prompt) :
    boundary (underLazy ((s.env.moves.headD [] ++ [.serve]) :: rest) s) = underLazy rest (boundary s) := by
  have hp : (applyMoves (s.env.moves.headD [])
      { s with env := { s.env with moves := s.env.moves.tail } }).cfg.irqService = .prompt := by
    rw [irqService_applyMoves]; exact h
  have hd : ∀ t : State, boundary (underLazy ((t.env.moves.headD [] ++ [.serve]) :: rest) t) =
      serveIfEnabled (applyMoves (t.env.moves.headD []) (underLazy rest t)) := by
    intro t
    have hl : (applyMoves (t.env.moves.headD [] ++ [.serve]) (underLazy rest t)).cfg.irqService = .lazy := by
      rw [irqService_applyMoves]; rfl
    have hb : boundary (underLazy ((t.env.moves.headD [] ++ [.serve]) :: rest) t) =
        servicePending (applyMoves (t.env.moves.headD [] ++ [.serve]) (underLazy rest t)) := rfl
    rw [hb, servicePending, hl]
    simp only [applyMoves, List.foldl_append]
    rfl
  have hu : underLazy rest s = underLazy rest { s with env := { s.env with moves := s.env.moves.tail } } := rfl
  rw [hd, hu, applyMoves_underLazy, serveIfEnabled_underLazy]
  unfold boundary servicePending
  rw [hp]

/-! ## The foreground -/

/-- Reading the context commutes with the switch. -/
theorem withCtx_underLazy (ms : List (List Move)) (s : State) (k k' : Context → State)
    (h : ∀ c, k' c = underLazy ms (k c)) : withCtx (underLazy ms s) k' = underLazy ms (withCtx s k) := by
  unfold withCtx
  rw [underLazy_ctx]
  cases s.ctx with
  | none => rfl
  | some c => exact h c

/-- One micro-step of the foreground reads neither the switch nor the script of moves. -/
theorem fgStep_underLazy (ms : List (List Move)) (s : State) :
    fgStep (underLazy ms s) = underLazy ms (fgStep s) := by
  have ite : ∀ (p : Prop) [Decidable p] (a b a' b' : State), a' = underLazy ms a → b' = underLazy ms b →
      (if p then a' else b') = underLazy ms (if p then a else b) := by
    intro p _ a b a' b' ha hb
    split <;> assumption
  unfold fgStep
  rw [underLazy_upc]
  cases s.upc with
  | idle => rfl
  | i0 => exact ite _ _ _ _ _ rfl rfl
  | i1 => exact ite _ _ _ _ _ rfl rfl
  | i2 => exact ite _ _ _ _ _ rfl (ite _ _ _ _ _ rfl rfl)
  | i3 =>
    refine ite _ _ _ _ _ rfl ?_
    have ha : ∀ c d, (lineCfg c d (underLazy ms s)).1 = (lineCfg c d s).1 := by
      intro c d; simp only [lineCfg, nextCfgAnswer, underLazy]; cases s.env.cfgAnswers <;> rfl
    have hb : ∀ c d, (lineCfg c d (underLazy ms s)).2 = underLazy ms (lineCfg c d s).2 := by
      intro c d; simp only [lineCfg, nextCfgAnswer, underLazy]; cases s.env.cfgAnswers <;> rfl
    have hc : cmdClockLine (underLazy ms s) = cmdClockLine s := rfl
    have hd : cmdDataLine (underLazy ms s) = cmdDataLine s := rfl
    simp only [hc, hd, ha, hb]
    split <;> rfl
  | i6 =>
    have ha : (drawTag (underLazy ms s)).1 = (drawTag s).1 := by
      simp only [drawTag, nextTagDraw, underLazy]; cases s.env.tagDraws <;> rfl
    have hb : (drawTag (underLazy ms s)).2 = underLazy ms (drawTag s).2 := by
      simp only [drawTag, nextTagDraw, underLazy]; cases s.env.tagDraws <;> rfl
    simp only [microI6, ha, hb]
    rfl
  | i7 =>
    refine withCtx_underLazy ms s _ _ fun c => ite _ _ _ _ _ ?_ rfl
    have ha : (armIrq c.dataLine (underLazy ms s)).1 = (armIrq c.dataLine s).1 := by
      simp only [armIrq, nextArmAnswer, underLazy]; cases s.env.armAnswers <;> rfl
    have hb : (armIrq c.dataLine (underLazy ms s)).2 = underLazy ms (armIrq c.dataLine s).2 := by
      simp only [armIrq, nextArmAnswer, underLazy]; cases s.env.armAnswers <;> rfl
    simp only [ha, hb]
    split <;> rfl
  | f0 | f1 | s0 | w0 | p0 => exact ite _ _ _ _ _ rfl rfl
  | s1 | w1 | p1 | a0 | b2 | a7 => exact withCtx_underLazy ms s _ _ fun c => ite _ _ _ _ _ rfl rfl
  | i8 | s2 | s4 | s5 | w3 | p2 | p4 | b0 | b1 | a1 | a2 | a3 | a4 | a6 =>
    exact withCtx_underLazy ms s _ _ fun c => rfl
  | i4 | i5 | f2 | x0 | s3 | s6 | w2 | w4 | p3 | p5 | p6 | a5 => rfl

end Sys2Proof.Machine
end

