-- ==== Sys2Proof/Laws/PerInstr.lean ====
section
/-! SUPPORT. Statements for all instructions, one lemma per constructor. -/

namespace Sys2Proof.Laws.LegalWord

/-- The word that the encoder gives an instruction is a legal command word: its opcode is one of the five and its
reserved bits are zero (R71 to R76). -/
def Statement (i : Instr) : Prop := wordWellFormed (encode i) = true

/-- The opcode field of a word, from its four bits. -/
theorem opcode_eq (w : Word) (op : BitVec 4) (h : ∀ i, i < 4 → w.getLsbD (28 + i) = op.getLsbD i) :
    w.extractLsb' 28 4 = op := by
  apply BitVec.eq_of_getLsbD_eq
  intro i hi
  simp only [BitVec.getLsbD_extractLsb', hi, decide_true, Bool.true_and]
  exact h i hi

/-- A reserved field is zero when each of its bits is. -/
theorem reserved_eq (w : Word) (lo len : Nat) (h : ∀ i, i < len → w.getLsbD (lo + i) = false) :
    w.extractLsb' lo len = 0#len := by
  apply BitVec.eq_of_getLsbD_eq
  intro i hi
  simp only [BitVec.getLsbD_extractLsb', hi, decide_true, Bool.true_and, BitVec.getLsbD_zero]
  exact h i hi

theorem init (ack slotOk : Bool) (a : Byte) (clk dat : LineId) : Statement (.init ack slotOk a clk dat) := by
  have ho : (wordI ack slotOk a clk dat).extractLsb' 28 4 = 1#4 :=
    opcode_eq _ _ fun i hi => by rw [getLsbD_wordI]; interval_cases i <;> simp
  have hr : (wordI ack slotOk a clk dat).extractLsb' 24 2 = 0#2 :=
    reserved_eq _ _ _ fun i hi => by rw [getLsbD_wordI]; interval_cases i <;> simp
  simp [Statement, wordWellFormed, legalOp, reservedBitsZero, encode, ho, hr]

/-- Format H with any legal opcode of its own (R72). -/
theorem formatH (op : BitVec 4) (h : Handle) (hop : op = 2#4 ∨ op = 4#4 ∨ op = 5#4) :
    wordWellFormed (wordH op h) = true := by
  have ho : (wordH op h).extractLsb' 28 4 = op :=
    opcode_eq _ _ fun i hi => by rw [getLsbD_wordH]; interval_cases i <;> simp
  have hr : (wordH op h).extractLsb' 16 12 = 0#12 :=
    reserved_eq _ _ _ fun i hi => by rw [getLsbD_wordH]; interval_cases i <;> simp
  rcases hop with rfl | rfl | rfl <;> simp [wordWellFormed, legalOp, reservedBitsZero, ho, hr]

theorem start (h : Handle) : Statement (.start h) := formatH 2#4 h (.inl rfl)

theorem write (b : Byte) (h : Handle) : Statement (.write b h) := by
  have ho : (wordW b h).extractLsb' 28 4 = 3#4 :=
    opcode_eq _ _ fun i hi => by rw [getLsbD_wordW]; interval_cases i <;> simp
  have hr : (wordW b h).extractLsb' 24 4 = 0#4 :=
    reserved_eq _ _ _ fun i hi => by rw [getLsbD_wordW]; interval_cases i <;> simp
  simp [Statement, wordWellFormed, legalOp, reservedBitsZero, encode, ho, hr]

theorem stop (h : Handle) : Statement (.stop h) := formatH 4#4 h (.inr (.inl rfl))

theorem free (h : Handle) : Statement (.free h) := formatH 5#4 h (.inr (.inr rfl))

end Sys2Proof.Laws.LegalWord
end

