-- ==== Sys2Proof/Laws/View.lean ====
section
/-! SUPPORT. The foreground's micro-steps commute with its view of the machine: it reads neither the pending bit nor the
edges and handler runs of the trace. With Laws/Environment.lean this runs a command micro-step by micro-step whatever the
other agents do, as long as the state is not `AckWait`. -/

namespace Sys2Proof.Machine

/-! ## The shared operations commute with the view -/

@[simp] theorem fgView_ctx (s : State) : (fgView s).ctx = s.ctx := rfl
@[simp] theorem fgView_cfg (s : State) : (fgView s).cfg = s.cfg := rfl
@[simp] theorem fgView_upc (s : State) : (fgView s).upc = s.upc := rfl
@[simp] theorem fgView_ret (s : State) : (fgView s).ret = s.ret := rfl
@[simp] theorem fgView_acked (s : State) : (fgView s).acked = s.acked := rfl
@[simp] theorem fgView_bitidx (s : State) : (fgView s).bitidx = s.bitidx := rfl
@[simp] theorem fgView_result (s : State) : (fgView s).result = s.result := rfl
@[simp] theorem fgView_txBit (s : State) : txBit (fgView s) = txBit s := rfl
@[simp] theorem fgView_ctxValid (s : State) : ctxValid (fgView s) = ctxValid s := rfl
@[simp] theorem fgView_handleOk (h : Handle) (s : State) : handleOk h (fgView s) = handleOk h s := rfl
@[simp] theorem fgView_cmdSlotOk (s : State) : cmdSlotOk (fgView s) = cmdSlotOk s := rfl
@[simp] theorem fgView_cmdPeerAddress (s : State) : cmdPeerAddress (fgView s) = cmdPeerAddress s := rfl
@[simp] theorem fgView_cmdClockLine (s : State) : cmdClockLine (fgView s) = cmdClockLine s := rfl
@[simp] theorem fgView_cmdDataLine (s : State) : cmdDataLine (fgView s) = cmdDataLine s := rfl
@[simp] theorem fgView_cmdByte (s : State) : cmdByte (fgView s) = cmdByte s := rfl
@[simp] theorem fgView_cmdHandle (s : State) : cmdHandle (fgView s) = cmdHandle s := rfl
@[simp] theorem fgView_freshContext (t : Handle) (s : State) : freshContext t (fgView s) = freshContext t s := rfl

/-- A record update of the trace by a foreground event commutes with the view. -/
theorem fgView_trace_append (s : State) (e : Event) (h : foregroundEvent e = true) :
    fgView { s with trace := s.trace ++ [e] } = { fgView s with trace := (fgView s).trace ++ [e] } := by
  simp [fgView, fgTrace, List.filter_append, h]

@[simp] theorem fgView_goto (l : Label) (s : State) : fgView (goto l s) = goto l (fgView s) := rfl
@[simp] theorem fgView_setCtx (c : Context) (s : State) : fgView (setCtx c s) = setCtx c (fgView s) := rfl
@[simp] theorem fgView_releaseCtx (s : State) : fgView (releaseCtx s) = releaseCtx (fgView s) := rfl
@[simp] theorem fgView_setBitidx (n : Fin 8) (s : State) : fgView (setBitidx n s) = setBitidx n (fgView s) := rfl
@[simp] theorem fgView_setResult (r : Status) (s : State) : fgView (setResult r s) = setResult r (fgView s) := rfl
@[simp] theorem fgView_setArmed (s : State) : fgView (setArmed s) = setArmed (fgView s) := rfl
@[simp] theorem fgView_sampleAck (c : Context) (s : State) : fgView (sampleAck c s) = sampleAck c (fgView s) := rfl
@[simp] theorem fgView_enterSendByte (b : Byte) (r : ReturnLabel) (s : State) :
    fgView (enterSendByte b r s) = enterSendByte b r (fgView s) := rfl

@[simp] theorem fgView_respond (st : Status) (h : Handle) (s : State) :
    fgView (respond st h s) = respond st h (fgView s) := by
  simp [respond, fgView, fgTrace, List.filter_append, foregroundEvent]

@[simp] theorem fgView_lineWrite (id : LineId) (v : Level) (s : State) :
    fgView (lineWrite id v s) = lineWrite id v (fgView s) := by
  have hd : busDataLine (fgView s) = busDataLine s := rfl
  have hc : busClockLine (fgView s) = busClockLine s := rfl
  simp only [lineWrite, hd, hc]
  simp [fgView, fgTrace, List.filter_append, foregroundEvent]

@[simp] theorem fgView_delay (n : Interval) (s : State) : fgView (delay n s) = delay n (fgView s) := by
  simp [delay, logEvent, fgView, fgTrace, List.filter_append, foregroundEvent]

@[simp] theorem fgView_accept (w : Word) (l : Label) (s : State) :
    fgView (accept w l s) = accept w l (fgView s) := by
  simp [accept, fgView, fgTrace, List.filter_append, foregroundEvent]

@[simp] theorem fgView_disarm (s : State) : fgView (disarm s) = disarm (fgView s) := by
  cases h : s.armed <;> simp [disarm, fgView, fgTrace, List.filter_append, foregroundEvent, h]

@[simp] theorem lineCfg_answer_fgView (c d : LineId) (s : State) : (lineCfg c d (fgView s)).1 = (lineCfg c d s).1 := rfl

@[simp] theorem fgView_lineCfg (c d : LineId) (s : State) :
    fgView (lineCfg c d s).2 = (lineCfg c d (fgView s)).2 := by
  simp [lineCfg, fgView, fgTrace, List.filter_append, foregroundEvent]

@[simp] theorem armIrq_answer_fgView (d : LineId) (s : State) : (armIrq d (fgView s)).1 = (armIrq d s).1 := rfl

@[simp] theorem fgView_armIrq (d : LineId) (s : State) : fgView (armIrq d s).2 = (armIrq d (fgView s)).2 := by
  simp [armIrq, fgView, fgTrace, List.filter_append, foregroundEvent]

@[simp] theorem drawTag_tag_fgView (s : State) : (drawTag (fgView s)).1 = (drawTag s).1 := rfl

@[simp] theorem fgView_drawTag (s : State) : fgView (drawTag s).2 = (drawTag (fgView s)).2 := rfl

/-- Reading the context commutes with the view. -/
theorem fgView_withCtx (s : State) (k k' : Context → State) (h : ∀ c, fgView (k c) = k' c) :
    fgView (withCtx s k) = withCtx (fgView s) k' := by
  unfold withCtx
  rw [fgView_ctx]
  cases s.ctx with
  | none => rfl
  | some c => exact h c

/-! ## The micro-steps commute with the view -/

/-- One micro-step of the foreground commutes with the view. -/
theorem fgView_fgStep (s : State) : fgView (fgStep s) = fgStep (fgView s) := by
  unfold fgStep
  rw [fgView_upc]
  cases s.upc with
  | idle => rfl
  | i0 => by_cases h : cmdSlotOk s = true <;> simp [microI0, h]
  | i1 =>
    by_cases h : (validLine s.cfg (cmdClockLine s) && validLine s.cfg (cmdDataLine s)) = true <;>
      simp only [microI1, fgView_cfg, fgView_cmdClockLine, fgView_cmdDataLine, h] <;> simp
  | i2 =>
    by_cases h : reservedAddress (shiftedAddress (cmdPeerAddress s)) = true <;>
      by_cases h' : addressTooLarge (shiftedAddress (cmdPeerAddress s)) = true <;> simp [microI2, h, h']
  | i3 =>
    by_cases h : ctxValid s = true
    · simp [microI3, h]
    · simp only [microI3, fgView_ctxValid, h, fgView_cmdClockLine, fgView_cmdDataLine, lineCfg_answer_fgView]
      cases (lineCfg (cmdClockLine s) (cmdDataLine s) s).1 <;> simp
  | i7 =>
    refine fgView_withCtx s _ _ fun c => ?_
    split
    · simp only [armIrq_answer_fgView]
      split <;> simp
    · simp
  | f0 => by_cases h : cmdHandle s = 0#16 <;> simp [microF0, h]
  | f2 => simp [microF2]
  | f1 | s0 | w0 | p0 =>
    by_cases h : handleOk (cmdHandle s) s = true <;> simp [microF1, microS0, microW0, microP0, handleCheck, h]
  | s1 =>
    refine fgView_withCtx s _ _ fun c => ?_
    by_cases h : (transition .start c).1 = .ok <;> simp [h]
  | w1 =>
    refine fgView_withCtx s _ _ fun c => ?_
    by_cases h : (transition .write c).1 = .ok <;> simp [h]
  | p1 =>
    refine fgView_withCtx s _ _ fun c => ?_
    by_cases h : (transition .ready c).1 = .ok <;> simp [h]
  | b2 =>
    refine fgView_withCtx s _ _ fun c => ?_
    by_cases h : s.bitidx = 0 <;> simp [h]
  | a0 =>
    refine fgView_withCtx s _ _ fun c => ?_
    by_cases h : (transition .ackWait c).1 = .ok <;> simp [h]
  | a7 =>
    refine fgView_withCtx s _ _ fun c => ?_
    by_cases h : s.acked = true <;> simp [h]
  | i8 | s2 | s4 | s5 | w3 | p2 | p4 | b0 | b1 | a1 | a2 | a3 | a4 | a6 =>
    exact fgView_withCtx s _ _ fun c => by simp
  | i4 | i5 | i6 | x0 | s3 | s6 | w2 | w4 | p3 | p5 | p6 | a5 =>
    simp [microI4, microI5, microI6, microX0, microS3, microS6, microW2, microW4, microP3, microP5, microP6, microA5]

/-- What the foreground makes of its view in one tick when the other agents cannot reach it. -/
def quietTick (s : State) : State := fgStep (dropMoves s)

/-- Outside `AckWait` and `Idle`, a tick shows the foreground its own micro-step and a used entry of the script, whatever
the other agents do. -/
theorem fgView_tick (s : State) (hu : s.upc ≠ .idle) (h : ∀ c, s.ctx = some c → c.state ≠ .ackWait) :
    fgView (tick s) = quietTick (fgView s) := by
  rw [tick_busy s hu, fgView_fgStep, fgView_boundary s h]
  rfl

/-- `n` quiet ticks. -/
def quietTicks : Nat → State → State
  | 0, s => s
  | n + 1, s => quietTicks n (quietTick s)

/-- None of the next `n` quiet ticks starts at `Idle` or in `AckWait`. -/
def quietFor : Nat → State → Prop
  | 0, _ => True
  | n + 1, s => s.upc ≠ .idle ∧ (∀ c, s.ctx = some c → c.state ≠ .ackWait) ∧ quietFor n (quietTick s)

/-- While no tick starts at `Idle` or in `AckWait`, the foreground's view of a run is its own micro-steps, whatever the
other agents do. -/
theorem fgView_ticks (n : Nat) (s : State) (h : quietFor n (fgView s)) :
    fgView (ticks n s) = quietTicks n (fgView s) := by
  induction n generalizing s with
  | zero => rfl
  | succ n ih =>
    obtain ⟨hu, hc, hn⟩ := h
    have ht := fgView_tick s hu hc
    rw [ticks_succ, quietTicks, ih _ (ht ▸ hn), ht]

/-- What a view says of the state field by field. -/
theorem fields_of_fgView {t v : State} (h : fgView t = v) :
    t.cfg = v.cfg ∧ t.ctx = v.ctx ∧ t.armed = v.armed ∧ t.sdaDrv = v.sdaDrv ∧ t.sclDrv = v.sclDrv ∧ t.upc = v.upc ∧
      t.txbyte = v.txbyte ∧ t.bitidx = v.bitidx ∧ t.ret = v.ret ∧ t.acked = v.acked ∧ t.result = v.result ∧
      t.cmd = v.cmd ∧ t.resp = v.resp ∧ fgTrace t = v.trace ∧ t.env = v.env := by
  subst h
  exact ⟨rfl, rfl, rfl, rfl, rfl, rfl, rfl, rfl, rfl, rfl, rfl, rfl, rfl, rfl, rfl⟩

/-- A command that is quiet to its end: its outcome as the foreground sees it (R70). -/
theorem runCommand_quiet {w : Word} {first : Label} {s v : State} (n : Nat) (hn : n ≤ 39) (hs : s.upc = .idle)
    (hq : quietFor n (accept w first (fgView s))) (hv : quietTicks n (accept w first (fgView s)) = v)
    (hi : v.upc = .idle) : ∃ t, runCommand w first s = .next t ∧ fgView t = v := by
  rw [← fgView_accept] at hq hv
  have ht := (fgView_ticks n _ hq).trans hv
  exact ⟨_, runCommand_of_ticks hn hs rfl ((fields_of_fgView ht).2.2.2.2.2.1.trans hi), ht⟩

end Sys2Proof.Machine
end

