-- ==== Sys2Proof/Tests/Slice0.lean ====
section
/-! SUPPORT. Tests on the worked examples of spec/, the smoke test of WellFormed, and a witness for the hypotheses of
every statement that has any. Expected values are the specification's own or worked out by hand from its rules. -/

namespace Sys2Proof.Tests

open Sys2Proof Sys2Proof.Machine

/-! ## Words, written out bit by bit from R71 to R73 -/

/-- `INIT 0x3C, 4, 5, 1` (R101: `0x1C3C0405`). -/
theorem test_decode_init :
    decode 0b0001_1_1_00_00111100_00000100_00000101#32 = .ok (.init true true 0x3C#8 4#8 5#8) := by decide

/-- `ack` alone is bit 27. -/
theorem test_decode_init_ack_bit :
    decode 0b0001_1_0_00_00000000_00000000_00000000#32 = .ok (.init true false 0#8 0#8 0#8) := by decide

/-- `START 0x0001` (R160: `0x20000001`). -/
theorem test_decode_start : decode 0b0010_000000000000_0000000000000001#32 = .ok (.start 1#16) := by decide

/-- `WRITE 0x0001, 0xFF` (R165: `0x30FF0001`). -/
theorem test_decode_write :
    decode 0b0011_0000_11111111_0000000000000001#32 = .ok (.write 0xFF#8 1#16) := by decide

/-- `STOP 0x0001` (R170: `0x40000001`). -/
theorem test_decode_stop : decode 0b0100_000000000000_0000000000000001#32 = .ok (.stop 1#16) := by decide

/-- `FREE 0x0001` (R110: `0x50000001`). -/
theorem test_decode_free : decode 0b0101_000000000000_0000000000000001#32 = .ok (.free 1#16) := by decide

/-- The words of the specification's worked examples. -/
theorem test_encode_examples :
    encode (.init true true 0x3C#8 4#8 5#8) = 0x1C3C0405#32 ∧ encode (.start 1#16) = 0x20000001#32 ∧
      encode (.write 0xFF#8 1#16) = 0x30FF0001#32 ∧ encode (.stop 1#16) = 0x40000001#32 ∧
      encode (.free 0#16) = 0x50000000#32 := by decide

/-- The table's numbering of a word is the word's own, and a word longer than 32 bits is no command. -/
theorem test_decodeTableWord :
    decodeTableWord 32 0x30FF0001 = some (.write 0xFF#8 1#16) ∧ decodeTableWord 32 0x60000000 = none ∧
      decodeTableWord 64 0x30FF0001 = none := by decide

/-! ## WellFormed: an ill-formed word for each check -/

/-- Reserved opcodes (R76). -/
theorem smoke_reserved_opcode :
    wordWellFormed 0x00000000#32 = false ∧ wordWellFormed 0x60000000#32 = false ∧
      wordWellFormed 0xF0000000#32 = false ∧ decode 0xF0000000#32 = .error .reservedOp := by decide

/-- Reserved bits of format I, at both ends of 25:24 (R71). -/
theorem smoke_reserved_bits_format_i :
    wordWellFormed 0x1D3C0405#32 = false ∧ wordWellFormed 0x1E3C0405#32 = false ∧
      decode 0x1D3C0405#32 = .error .reservedBits := by decide

/-- Reserved bits of format H, at both ends of 27:16 (R72). -/
theorem smoke_reserved_bits_format_h :
    wordWellFormed 0x20010001#32 = false ∧ wordWellFormed 0x48000001#32 = false ∧
      decode 0x50010001#32 = .error .reservedBits := by decide

/-- Reserved bits of format W, at both ends of 27:24 (R73). -/
theorem smoke_reserved_bits_format_w :
    wordWellFormed 0x31550001#32 = false ∧ wordWellFormed 0x38550001#32 = false ∧
      decode 0x31550001#32 = .error .reservedBits := by decide

/-- The words of the five commands pass. -/
theorem smoke_well_formed :
    wordWellFormed 0x1C3C0405#32 = true ∧ wordWellFormed 0x2000FFFF#32 = true ∧ wordWellFormed 0x30FFFFFF#32 = true ∧
      wordWellFormed 0x40000000#32 = true ∧ wordWellFormed 0x50000000#32 = true := by decide

/-! ## Small states -/

/-- A context as Scenario A makes it, in the given protocol state, with the tag 1. -/
def ctxAt (q : ProtoState) (ackEnabled : Bool) : Context where
  addrS := 0x78#8
  clockLine := 4#8
  dataLine := 5#8
  ackEnabled := ackEnabled
  state := q
  ackEventCount := 0
  selfTag := 1#16

/-- A live context at rest, with its lines as R44 has them. -/
def restAt (q : ProtoState) (ackEnabled : Bool) : State :=
  { State.reset with
    ctx := some (ctxAt q ackEnabled)
    armed := ackEnabled
    sdaDrv := some (q == .ready)
    sclDrv := some (q == .ready) }

/-- The same state when the environment raises an edge at the `n`-th boundary. -/
def withEdge (n : Nat) (s : State) : State :=
  { s with env := { s.env with moves := List.replicate n [] ++ [[.edge]] } }

/-- The state after reset when the environment answers `cfg` and `arm` and draws the tag 1. -/
def answering (cfg arm : Answer) : State :=
  { State.reset with
    env := { Env.reset with cfgAnswers := [cfg], armAnswers := [arm], tagDraws := [0] } }

/-- The state with the command word `w` as the host's next turn. -/
def hosted (w : Word) (s : State) : State := presentWord w s

/-- A micro-step label with a context in the given protocol state. -/
def midRun (l : Label) (q : ProtoState) : State :=
  { restAt .write true with
    ctx := some (ctxAt q true)
    upc := l
    bitidx := 7 }

/-- The next state holds what `p` says. -/
def nextHas (o : Host.Outcome State Fault Refusal) (p : State → Bool) : Bool :=
  match o with
  | .next t => p t
  | .fault _ => false
  | .refused _ => false

/-! ## The commands, on the specification's scenarios -/

/-- Scenario A (R101): the trace of `INIT 0x3C, 4, 5, 1`. -/
theorem test_init_scenario_a :
    nextHas (exec (.init true true 0x3C#8 4#8 5#8) (answering .ok .ok)) (fun t =>
      t.trace == [.cmd 0x1C3C0405#32, .cfg 4#8 5#8 .ok, .lineWrite 5#8 true, .lineWrite 4#8 true, .arm 5#8 .ok,
        .resp .ok 1#16] &&
      t.ctx == some (ctxAt .ready true) && t.armed) = true := by decide +kernel

/-- R109 (d): `0x88` is too large; it is not truncated to `0x10`. -/
theorem test_init_0x88 :
    nextHas (exec (.init true true 0x88#8 4#8 5#8) State.reset) (fun t =>
      respStatus t == 4#4 && respHandle t == 0#16) = true := by decide +kernel

/-- Scenario A continued (R160): the address byte is acknowledged by an edge after `A0` and before `A6`. -/
theorem test_start_acknowledged :
    nextHas (exec (.start 1#16) (withEdge 33 (restAt .ready true))) (fun t =>
      respStatus t == 0#4 && t.txbyte == 0x78#8 && stateO t == some 3#3 && ackCountO t == some 1) = true := by decide +kernel

/-- R163: a second `START` without a `STOP` is refused. -/
theorem test_start_repeated :
    nextHas (exec (.start 1#16) (restAt .write true)) (fun t =>
      respStatus t == 8#4 && respHandle t == 1#16 && stateO t == some 3#3) = true := by decide +kernel

/-- Scenario C (R165): a silent peer, `E_NACK`, the counter still 0, the state `Stop`. -/
theorem test_write_silent_peer :
    nextHas (exec (.write 0xFF#8 1#16) (restAt .write true)) (fun t =>
      respStatus t == 9#4 && ackCountO t == some 0 && stateO t == some 4#3) = true := by decide +kernel

/-- The late-edge race (R136, R139): an edge after `A6` and before `A7` counts and is reported as not acknowledged. -/
theorem test_write_late_edge :
    nextHas (exec (.write 0xFF#8 1#16) (withEdge 34 (restAt .stop true))) (fun t =>
      respStatus t == 9#4 && ackCountO t == some 1 && stateO t == some 4#3) = true := by decide +kernel

/-- Scenario C, end (R170): the Stop condition. -/
theorem test_stop_after_write :
    nextHas (exec (.stop 1#16) (restAt .stop true)) (fun t =>
      t.trace == [.cmd 0x40000001#32, .lineWrite 4#8 true, .delay .tSuSto, .lineWrite 5#8 true, .delay .tBuf,
        .resp .ok 1#16] && stateO t == some 0#3) = true := by decide +kernel

/-- R174: `STOP` directly after `START` is refused and the lines stay low. -/
theorem test_stop_without_write :
    nextHas (exec (.stop 1#16) (restAt .write true)) (fun t =>
      respStatus t == 8#4 && t.sdaDrv == some false && t.sclDrv == some false) = true := by decide +kernel

/-- R110: `FREE 0x0001`. -/
theorem test_free :
    nextHas (exec (.free 1#16) (restAt .ready true)) (fun t =>
      t.trace == [.cmd 0x50000001#32, .disarm, .resp .ok 0#16] && t.ctx == none && !t.armed) = true := by decide +kernel

/-- R112 (d): a foreign handle releases nothing. -/
theorem test_free_foreign_handle :
    nextHas (exec (.free 2#16) (restAt .ready true)) (fun t =>
      respStatus t == 10#4 && respHandle t == 2#16 && ctxValidO t) = true := by decide +kernel

/-- R76, by way of `step`: an illegal word answers `E_ILLEGAL_CMD`. -/
theorem test_step_illegal_word :
    nextHas (step (State.reset.withFetchWord 32 0x60000000)) (fun t => t.resp == 0x000B0000#32) = true := by decide +kernel

/-- A word presented to the state after reset is the next step's (log entry 16). -/
theorem test_step_withFetchWord :
    nextHas (step (State.reset.withFetchWord 32 0x30550001)) (fun t =>
      t.cmd == 0x30550001#32 && t.resp == 0x000A0001#32 && t.env.turns.isEmpty) = true := by decide +kernel

/-- R151's worked example: the counter goes from 3 to 4, and a second edge and run leave it at 4. -/
theorem test_handler_example :
    let s := { midRun .a5 .ackWait with ctx := some { ctxAt .ackWait true with ackEventCount := 3 } }
    ackCountO (ackIrq (raiseEdge s)) = some 4 ∧ stateO (ackIrq (raiseEdge s)) = some 3#3 ∧
      ackCountO (ackIrq (raiseEdge (ackIrq (raiseEdge s)))) = some 4 := by decide

/-- R199: under lazy service an edge inside the window may be served too late to count. -/
theorem test_lazy_edge_not_served :
    let s := withEdge 30 (restAt .write true)
    nextHas (exec (.write 0#8 1#16) { s with cfg := { s.cfg with irqService := .lazy } }) (fun t =>
      respStatus t == 9#4 && ackCountO t == some 0 && t.irqPending) = true := by decide +kernel

/-- `XMIT` is a list of commands (R86). -/
theorem test_xmit :
    xmit 1#16 0x00#8 [0xAF#8] = [.start 1#16, .write 0x00#8 1#16, .write 0xAF#8 1#16, .stop 1#16] := by decide

/-! ## Witnesses: a state and operands that meet every hypothesis of a statement, clause by clause -/

theorem witness_DecodeOfEncodeIsTheInstruction : (Instr.write 0xFF#8 0xFFFF#16).wellFormed = true := by decide

theorem witness_EncodeOfDecodeIsTheWord : decode 0x30FFFFFF#32 = .ok (.write 0xFF#8 0xFFFF#16) := by decide

theorem witness_EveryStepKeepsTheInvariant :
    inv (hosted 0x30FF0001#32 (restAt .write true)) = true ∧
      nextHas (step (hosted 0x30FF0001#32 (restAt .write true))) (fun _ => true) = true := by decide

theorem witness_CommandsLeaveTheContextAtRest :
    inv (hosted 0x30FF0001#32 (restAt .write true)) = true ∧
      nextHas (step (hosted 0x30FF0001#32 (restAt .write true))) (fun t => t.ctx == some (ctxAt .stop true)) = true := by
  decide +kernel

theorem witness_EveryStepEndsIdle : lostContext (midRun .a3 .ackWait) = false := by decide

theorem witness_EmptySlotFaultsOnlyWhereNoRunGoes :
    lostContext { State.reset with upc := .b1 } = true ∧ inv State.reset = true := by decide

theorem witness_StepRunsTheDecodedCommand :
    (hosted 0x1C3C0405#32 State.reset).env.turns = .command 0x1C3C0405#32 :: [] ∧
      decode 0x1C3C0405#32 = .ok (.init true true 0x3C#8 4#8 5#8) ∧
      (Instr.init true true 0x3C#8 4#8 5#8).wellFormed = true := by decide

theorem witness_IllegalWordHasNoOtherEffect :
    let s := hosted 0x1D3C0405#32 (restAt .stop true)
    s.upc = .idle ∧ inv s = true ∧ s.env.turns = .command 0x1D3C0405#32 :: [] ∧
      wordWellFormed 0x1D3C0405#32 = false := by decide

/-- With no turn left and with an idle turn, an edge at hand. -/
theorem witness_IdleTurnLeavesTheContextAlone :
    let s := withEdge 0 (restAt .ready true)
    s.upc = .idle ∧ inv s = true ∧ s.env.turns = [] ∧
      inv { s with env := { s.env with turns := [.idle] } } = true := by decide

/-- A run whose host has only idle turns left has ended, edge at hand or not; one with a word left has not. -/
theorem witness_EndedRunStaysEnded :
    let s := withEdge 0 (restAt .ready true)
    let e := { s with env := { s.env with turns := [.idle, .idle] } }
    inv e = true ∧ runEnded e = true ∧ e.cfg.irqService = .prompt ∧ runEnded s = true ∧
      runEnded (hosted 0x40000001#32 e) = false := by decide

theorem witness_BusyCommandWaits : lostContext (midRun .b1 .write) = false ∧ busyO (midRun .b1 .write) = true := by decide

theorem witness_EveryCommandRespondsWithinItsBound : State.reset.upc = .idle := by decide

/-- One pair of states per clause: an identity, a legal edge, an illegal pair. -/
theorem witness_TransitionFollowsTheGrid :
    (ctxAt .stop true).state = .stop ∧
      (ProtoState.stop, ProtoState.write) ∈ [(ProtoState.stop, ProtoState.ready), (.stop, .write)] ∧
      (ProtoState.stop, ProtoState.ackWait) ∈ [(ProtoState.stop, ProtoState.start), (.stop, .ackWait)] := by decide

/-- The contract's clauses at the ends of their ranges (R109). -/
theorem witness_AddressContract :
    addressAccepted (shiftedAddress 0x08#8) = true ∧ addressAccepted (shiftedAddress 0x3F#8) = true ∧
      reservedAddress (shiftedAddress 0x07#8) = true ∧ addressTooLarge (shiftedAddress 0x40#8) = true ∧
      addressTooLarge (shiftedAddress 0x7C#8) = true ∧ reservedAddress (shiftedAddress 0x78#8) = true ∧
      reservedAddress (shiftedAddress 0x7B#8) = true := by decide

/-- Each check of `INIT`, failing first (R101, R107). -/
theorem witness_InitEndsAtItsFirstFailingCheck :
    State.reset.upc = .idle ∧ inv State.reset = true ∧
      initRefusal false 0#8 0#8 0#8 State.reset = some (.invalidSlot, 1) ∧
      initRefusal true 0#8 4#8 28#8 State.reset = some (.invalidLine, 2) ∧
      initRefusal true 0x07#8 4#8 5#8 State.reset = some (.reservedAddr, 3) ∧
      initRefusal true 0x40#8 4#8 5#8 State.reset = some (.addrTooLarge, 3) ∧
      (restAt .write true).upc = .idle ∧ inv (restAt .write true) = true ∧
      initRefusal true 0x3C#8 4#8 5#8 (restAt .write true) = some (.alloc, 4) := by decide

theorem witness_InitFailsWhenTheLinesAreNotConfigured :
    (answering .fail .ok).upc = .idle ∧ inv (answering .fail .ok) = true ∧
      initRefusal true 0x08#8 2#8 27#8 (answering .fail .ok) = none ∧
      (nextCfgAnswer (answering .fail .ok).env).1 = .fail := by decide

theorem witness_InitReleasesTheContextWhenArmingFails :
    (answering .ok .fail).upc = .idle ∧ inv (answering .ok .fail) = true ∧
      initRefusal true 0x3F#8 4#8 5#8 (answering .ok .fail) = none ∧
      (nextCfgAnswer (answering .ok .fail).env).1 = .ok ∧
      (nextArmAnswer (nextTagDraw (nextCfgAnswer (answering .ok .fail).env).2).2).1 = .fail := by decide

theorem witness_InitConstructsTheContext :
    (answering .ok .ok).upc = .idle ∧ inv (answering .ok .ok) = true ∧
      initRefusal true 0x3F#8 4#8 5#8 (answering .ok .ok) = none ∧
      (nextCfgAnswer (answering .ok .ok).env).1 = .ok ∧
      (nextArmAnswer (nextTagDraw (nextCfgAnswer (answering .ok .ok).env).2).2).1 = .ok := by decide

/-- An `INIT` that answers `OK` and one that fails on an empty slot. -/
theorem witness_InitLeavesNoPartialContext :
    (answering .ok .ok).upc = .idle ∧ inv (answering .ok .ok) = true ∧
      nextHas (exec (.init true true 0x3F#8 4#8 5#8) (answering .ok .ok)) (fun t =>
        respStatus t == statusCode .ok) = true ∧
      (answering .ok .fail).upc = .idle ∧ inv (answering .ok .fail) = true ∧ (answering .ok .fail).ctx = none ∧
      nextHas (exec (.init true true 0x3F#8 4#8 5#8) (answering .ok .fail)) (fun t =>
        respStatus t != statusCode .ok) = true := by decide +kernel

theorem witness_FreeOfTheNullHandleIsANoOp :
    (restAt .write true).upc = .idle ∧ inv (restAt .write true) = true := by decide

theorem witness_FreeReleasesTheContext :
    (restAt .write true).upc = .idle ∧ inv (restAt .write true) = true ∧ handleOk 1#16 (restAt .write true) = true := by
  decide

/-- With an empty slot, and with a live context of another tag. -/
theorem witness_FreeRefusesAForeignHandle :
    State.reset.upc = .idle ∧ inv State.reset = true ∧ (1#16 : Handle) ≠ 0#16 ∧ handleOk 1#16 State.reset = false ∧
      (restAt .stop true).upc = .idle ∧ inv (restAt .stop true) = true ∧
      handleOk 0xFFFF#16 (restAt .stop true) = false := by decide

theorem witness_FreeTwiceIsIdempotent :
    (restAt .ready true).upc = .idle ∧ inv (restAt .ready true) = true ∧ handleOk 1#16 (restAt .ready true) = true := by
  decide

theorem witness_StartSendsTheAddressByte :
    (restAt .ready true).upc = .idle ∧ handleOk 1#16 (restAt .ready true) = true ∧
      (restAt .ready true).ctx = some (ctxAt .ready true) ∧ (ctxAt .ready true).state = .ready := by decide

/-- From `Write` and from `Stop`. -/
theorem witness_WriteSendsItsByte :
    (restAt .write true).upc = .idle ∧ handleOk 1#16 (restAt .write true) = true ∧
      (restAt .write true).ctx = some (ctxAt .write true) ∧
      (restAt .stop true).upc = .idle ∧ handleOk 1#16 (restAt .stop true) = true ∧
      (restAt .stop true).ctx = some (ctxAt .stop true) := by decide

/-- From `Stop` and from `Ready`. -/
theorem witness_StopEndsTheTransaction :
    (restAt .stop true).upc = .idle ∧ handleOk 1#16 (restAt .stop true) = true ∧
      (restAt .stop true).ctx = some (ctxAt .stop true) ∧
      (restAt .ready true).upc = .idle ∧ handleOk 1#16 (restAt .ready true) = true ∧
      (restAt .ready true).ctx = some (ctxAt .ready true) := by decide

/-- `START` and `STOP` from `Write`, `START` from `Stop`, `WRITE` from `Ready`: each has its state. -/
theorem witness_EnvelopeRefusesAnIllegalTransition :
    (restAt .write true).upc = .idle ∧ handleOk 1#16 (restAt .write true) = true ∧
      (restAt .write true).ctx = some (ctxAt .write true) ∧ (ctxAt .write true).state = .write ∧
      (restAt .stop true).upc = .idle ∧ handleOk 1#16 (restAt .stop true) = true ∧ (restAt .stop true).ctx = some (ctxAt .stop true) ∧
      (ctxAt .stop true).state = .stop ∧ (restAt .ready true).upc = .idle ∧
      handleOk 1#16 (restAt .ready true) = true ∧ (restAt .ready true).ctx = some (ctxAt .ready true) ∧
      (ctxAt .ready true).state = .ready := by decide

/-- No context, the null handle, another tag (R175). -/
theorem witness_EnvelopeRefusesAForeignHandle :
    State.reset.upc = .idle ∧ inv State.reset = true ∧ handleOk 1#16 State.reset = false ∧
      (restAt .ready true).upc = .idle ∧ inv (restAt .ready true) = true ∧
      handleOk 0#16 (restAt .ready true) = false ∧ handleOk 2#16 (restAt .ready true) = false := by decide

theorem witness_EmptySlotAnswersBeforeInit : State.reset.upc = .idle ∧ State.reset.ctx = none := by decide

/-- Called from StartXmit and from Write. -/
theorem witness_SendByteTakesThirtyTwoMicroSteps :
    (midRun .b0 .start).upc = .b0 ∧ (midRun .b0 .start).bitidx = 7 ∧
      (midRun .b0 .start).ctx = some (ctxAt .start true) ∧
      (midRun .b0 .write).upc = .b0 ∧ (midRun .b0 .write).bitidx = 7 ∧
      (midRun .b0 .write).ctx = some (ctxAt .write true) := by decide

theorem witness_SendByteLeavesTheStateUsable :
    (midRun .b0 .start).upc = .b0 ∧ (midRun .b0 .start).bitidx = 7 ∧
      (midRun .b0 .start).ctx = some (ctxAt .start true) ∧ (ctxAt .start true).state = .start := by decide

theorem witness_PeerSeesTheByteMostSignificantBitFirst :
    (midRun .b0 .write).upc = .b0 ∧ (midRun .b0 .write).bitidx = 7 ∧
      (midRun .b0 .write).ctx = some (ctxAt .write true) ∧ (ctxAt .write true).state = .write ∧
      (ctxAt .write true).clockLine ≠ (ctxAt .write true).dataLine := by decide

/-- Edges at the first and the last boundary of the window, just before it, in the late-edge race, and just after. -/
theorem witness_WriteIsAcknowledgedExactlyByAnEdgeInTheWindow :
    (restAt .stop true).upc = .idle ∧ handleOk 1#16 (restAt .stop true) = true ∧
      (restAt .stop true).ctx = some (ctxAt .stop true) ∧ (restAt .stop true).armed = true ∧
      (restAt .stop true).cfg.irqService = .prompt ∧
      edgeWithin (withEdge 28 (restAt .stop true)) 28 6 = true ∧
      edgeWithin (withEdge 33 (restAt .stop true)) 28 6 = true ∧
      edgeWithin (withEdge 27 (restAt .stop true)) 28 7 = false ∧
      edgeWithin (withEdge 34 (restAt .stop true)) 28 6 = false ∧
      edgeWithin (withEdge 34 (restAt .stop true)) 28 7 = true ∧
      edgeWithin (withEdge 35 (restAt .stop true)) 28 7 = false := by decide

theorem witness_StartIsAcknowledgedExactlyByAnEdgeInTheWindow :
    (restAt .ready true).upc = .idle ∧ handleOk 1#16 (restAt .ready true) = true ∧
      (restAt .ready true).ctx = some (ctxAt .ready true) ∧ (restAt .ready true).armed = true ∧
      (restAt .ready true).cfg.irqService = .prompt ∧
      edgeWithin (withEdge 31 (restAt .ready true)) 31 6 = true ∧
      edgeWithin (withEdge 36 (restAt .ready true)) 31 6 = true ∧
      edgeWithin (withEdge 30 (restAt .ready true)) 31 7 = false ∧
      edgeWithin (withEdge 37 (restAt .ready true)) 31 6 = false ∧
      edgeWithin (withEdge 37 (restAt .ready true)) 31 7 = true ∧
      edgeWithin (withEdge 38 (restAt .ready true)) 31 7 = false := by decide

/-- In `Ready`, in `Write` and in `Stop`. -/
theorem witness_CaptureDisabledMeansEveryByteReportsNack :
    (restAt .ready false).upc = .idle ∧ inv (restAt .ready false) = true ∧
      handleOk 1#16 (restAt .ready false) = true ∧ (restAt .ready false).ctx = some (ctxAt .ready false) ∧
      (restAt .write false).upc = .idle ∧ inv (restAt .write false) = true ∧
      handleOk 1#16 (restAt .write false) = true ∧ (restAt .write false).ctx = some (ctxAt .write false) ∧
      (restAt .stop false).upc = .idle ∧ inv (restAt .stop false) = true ∧
      handleOk 1#16 (restAt .stop false) = true ∧ (restAt .stop false).ctx = some (ctxAt .stop false) := by decide

/-- `START` from `Ready` and `WRITE` from `Write` and `Stop`, armed, under prompt and under lazy service. -/
theorem witness_SilentPeerMeansNack :
    ∀ q ∈ [ProtoState.ready, .write, .stop], ∀ d ∈ [IrqService.prompt, .lazy],
      let s := { restAt q true with cfg := { Config.default with irqService := d } }
      s.upc = .idle ∧ handleOk 1#16 s = true ∧ s.ctx = some (ctxAt q true) ∧ s.armed = true ∧ silent s = true := by
  decide

theorem witness_SampleAndForceRaceIsBenign :
    (midRun .a7 .ackWait).upc = .a7 ∧ (midRun .a7 .ackWait).ctx = some (ctxAt .ackWait true) ∧
      (midRun .a7 .ackWait).acked = false := by decide

/-- A run that is taken and one that is ignored. -/
theorem witness_HandlerRunTakesOnlyItsOneEdge :
    (midRun .a5 .ackWait).ctx = some (ctxAt .ackWait true) ∧ (restAt .ready true).ctx = some (ctxAt .ready true) := by
  decide

theorem witness_EdgePendsOnlyWhileArmed :
    (restAt .ready true).armed = true ∧ (restAt .ready false).armed = false := by decide

theorem witness_PromptServiceComesBeforeTheForeground :
    (restAt .ready true).cfg.irqService = .prompt := by decide

/-- Inside a command and between commands. -/
theorem witness_LazyServiceAdmitsEveryPromptRun :
    (midRun .a1 .ackWait).cfg.irqService = .prompt ∧
      (hosted 0x30FF0001#32 (restAt .write true)).cfg.irqService = .prompt := by decide

theorem witness_ForegroundWritesOnlyWhatItOwns :
    (midRun .a7 .ackWait).upc = .a7 ∧ (midRun .a7 .ackWait).ctx = some (ctxAt .ackWait true) ∧
      (fgStep (midRun .a7 .ackWait)).ctx = some (ctxAt .write true) ∧
      (midRun .a6 .ackWait).upc ∉ [Label.i6, .s1, .w1, .w3, .p1, .a0, .a7] ∧
      (fgStep (midRun .a6 .ackWait)).ctx = some (ctxAt .ackWait true) := by decide

theorem witness_LiveContextIsImmutableButForStateAndCount :
    (hosted 0x30FF0001#32 (restAt .write true)).upc = .idle ∧
      (hosted 0x30FF0001#32 (restAt .write true)).ctx = some (ctxAt .write true) ∧
      nextHas (step (hosted 0x30FF0001#32 (restAt .write true))) (fun t => t.ctx == some (ctxAt .stop true)) = true := by
  decide +kernel

/-- A step that takes a handler run, for both clauses. -/
theorem witness_CounterOnlyCountsTheTakenRuns :
    let s := hosted 0x30FF0001#32 (withEdge 28 (restAt .write true))
    s.upc = .idle ∧ s.ctx = some (ctxAt .write true) ∧ ctxValid s = true ∧
      nextHas (step s) (fun t => ackCountO t == some 1 && t.trace.count (.irq .taken) == 1) = true := by decide +kernel

/-- At a data bit, and at each of the three writes the rule excepts. -/
theorem witness_DataLineChangesOnlyWhileTheClockIsLow :
    inv { midRun .b0 .write with ret := .w3 } = true ∧
      busClockLine (midRun .b0 .write) ≠ busDataLine (midRun .b0 .write) ∧
      (fgStep { midRun .b0 .write with ret := .w3, txbyte := 0xFF#8 }).trace = [.lineWrite 5#8 true] ∧
      (let s := { restAt .ready true with ctx := some (ctxAt .start true), upc := .s2 }
       inv s = true ∧ (fgStep s).trace = [.lineWrite 5#8 false]) ∧
      (let s := { restAt .ready true with upc := .p4 }
       inv s = true ∧ (fgStep s).trace = [.lineWrite 5#8 true]) ∧
      (let s := { State.reset with cmd := 0x1C3C0405#32, upc := .i4 }
       inv s = true ∧ busClockLine s ≠ busDataLine s ∧ (fgStep s).trace = [.lineWrite 5#8 true]) := by decide

/-- With an empty slot and with a live context. -/
theorem witness_ObservationPortsShowTheContext :
    State.reset.ctx = none ∧ (restAt .stop true).ctx = some (ctxAt .stop true) := by decide

/-- At the interval `T_BUF` and a clock of 16 MHz: 20.8 cycles, so 21. -/
theorem witness_IntervalCyclesRoundUp :
    let cfg := { Config.default with cpuHz := 16000000 }
    intervalNs cfg .tBuf * cfg.cpuHz ≤ 21 * 1000000000 ∧ intervalCycles cfg .tBuf = 21 := by decide

end Sys2Proof.Tests
end

section
/-! PROOFS. The race of R62: the handler's run between the sample of `A6` and the forced write of `A7`. -/

namespace Sys2Proof.Machine

/-- A handler run that finds `AckWait` takes the handler's one edge and records itself (R151). -/
theorem ackIrq_taken (s : State) (c : Context) (hc : s.ctx = some c) (hs : c.state = .ackWait) :
    ackIrq s = { s with
      irqPending := false
      ctx := some { c with state := .write, ackEventCount := c.ackEventCount + 1 }
      trace := s.trace ++ [.irq .taken] } := by
  simp [ackIrq, withCtx, hc, hs, setCtx, logEvent]

/-- `A7` after a negative sample, whatever protocol state it finds: the forced write, `E_NACK`, return (R131, R136). -/
theorem fgStep_a7_nack (s : State) (c : Context) (hu : s.upc = .a7) (hc : s.ctx = some c) (ha : s.acked = false) :
    fgStep s = goto (returnLabel s.ret) (setResult .nack (setCtx { c with state := .write } s)) := by
  simp [fgStep, hu, microA7, withCtx, hc, ha]

/-- Settles O42: the forced write does not read the state it overwrites, so a handler run before it leaves only its
count. -/
theorem sampleAndForceRaceIsBenign : Obligations.SampleAndForceRaceIsBenign := by
  intro s c hu hc hs ha
  have without := fgStep_a7_nack s c hu hc ha
  have taken := ackIrq_taken s c hc hs
  have after := fgStep_a7_nack (ackIrq s) { c with state := .write, ackEventCount := c.ackEventCount + 1 }
    (by simp [taken, hu]) (by simp [taken]) (by simp [taken, ha])
  have ret : (ackIrq s).ret = s.ret := by simp [taken]
  simp [without, after, ret]

end Sys2Proof.Machine
end

section
/-! PROOFS. Commands that end before any `AckWait`, micro-step by micro-step, and what `INIT` leaves behind (R108). -/

namespace Sys2Proof.Machine

/-! ## Runs that end within a number of micro-steps -/

/-- From the foreground's view `s` a run is idle after at most `n` quiet micro-steps, in a view of which `Q` holds. -/
def EndsWithin (n : Nat) (Q : State → Prop) (s : State) : Prop :=
  ∃ m ≤ n, quietFor m s ∧ (quietTicks m s).upc = .idle ∧ Q (quietTicks m s)

/-- A response ends the command. -/
theorem endsWithin_respond {n : Nat} {Q : State → Prop} {st : Status} {h : Handle} {s : State}
    (hQ : Q (respond st h s)) : EndsWithin n Q (respond st h s) :=
  ⟨0, n.zero_le, trivial, rfl, hQ⟩

/-- A quiet micro-step, and then the rest of the run. -/
theorem endsWithin_tick {n : Nat} {Q : State → Prop} {s : State} (hu : s.upc ≠ .idle)
    (hc : ∀ c, s.ctx = some c → c.state ≠ .ackWait) (h : EndsWithin n Q (fgStep (dropMoves s))) :
    EndsWithin (n + 1) Q s := by
  obtain ⟨m, hm, hq, hi, hQ⟩ := h
  exact ⟨m + 1, Nat.succ_le_succ hm, ⟨hu, hc, hq⟩, hi, hQ⟩

/-- A command whose run ends in the foreground's view answers a next state, and `Q` holds of the view of it. -/
theorem runCommand_endsWithin {n : Nat} {Q : State → Prop} {w : Word} {first : Label} {s : State} (hn : n ≤ 39)
    (hs : s.upc = .idle) (h : EndsWithin n Q (accept w first (fgView s))) :
    ∃ t, runCommand w first s = .next t ∧ Q (fgView t) := by
  obtain ⟨m, hm, hq, hi, hQ⟩ := h
  obtain ⟨t, ht, hv⟩ := runCommand_quiet m (hm.trans hn) hs hq rfl hi
  exact ⟨t, ht, hv ▸ hQ⟩

/-! ## What the invariant says at `Idle` -/

/-- Between commands no context is in `AckWait` (R43). -/
theorem ctx_not_ackWait_of_inv {s : State} (hu : s.upc = .idle) (hi : inv s = true) (c : Context)
    (hc : s.ctx = some c) : c.state ≠ .ackWait := by
  intro h
  simp [inv, labelInv, hu, restOrEmpty, hc, atRest, h] at hi

/-- Without a context the interrupt is not armed (R30). -/
theorem disarmed_of_inv {s : State} (hi : inv s = true) (hc : s.ctx = none) : s.armed = false := by
  simp only [inv, armedInv, hc, Bool.and_eq_true] at hi
  obtain ⟨⟨⟨-, harmed⟩, -⟩, -⟩ := hi
  simpa using harmed

/-! ## The micro-program of `INIT`, from its end to its start -/

/-- A drawn tag is never the null handle (R28). -/
theorem tagOfDraw_ne_zero (k : TagDraw) : tagOfDraw k ≠ 0#16 := by
  have hk := k.isLt
  intro h
  have := congrArg BitVec.toNat h
  simp only [tagOfDraw, BitVec.toNat_ofNat] at this
  omega

/-- `OK` is the one status with its code (R80). -/
theorem eq_ok_of_statusCode_eq {st : Status} : statusCode st = statusCode .ok → st = .ok := by
  cases st <;> decide

/-- The postcondition of R108 for an `INIT` with the operand `ack` that found `found` in the slot. -/
def InitPost (ack : Bool) (found : Option Context) (t : State) : Prop :=
  (respStatus t = statusCode .ok → ctxValid t = true ∧ t.sdaDrv = some true ∧ t.sclDrv = some true ∧
    t.armed = ack ∧ ∃ c : Context, t.ctx = some c ∧ respHandle t = c.selfTag ∧ c.selfTag ≠ 0#16 ∧
      c.state = .ready ∧ c.ackEventCount = 0) ∧
  (respStatus t ≠ statusCode .ok → found = none → ctxValid t = false ∧ respHandle t = 0#16)

/-- Before `I6` the slot, `armed` and the command's `ack` are as `INIT` found them. -/
structure BeforeConstruction (ack : Bool) (found : Option Context) (s : State) : Prop where
  ack      : cmdAck s = ack
  slot     : s.ctx = found
  quiet    : ∀ c, found = some c → c.state ≠ .ackWait
  disarmed : found = none → s.armed = false

/-- After `I6` the slot holds the context `c` as R105 constructs it, with both lines driven high. -/
structure Constructed (c : Context) (s : State) : Prop where
  slot      : s.ctx = some c
  ready     : c.state = .ready
  uncounted : c.ackEventCount = 0
  tagged    : c.selfTag ≠ 0#16
  data      : s.sdaDrv = some true
  clock     : s.sclDrv = some true

section
variable {ack : Bool} {found : Option Context} {c : Context} {s : State}

theorem BeforeConstruction.goto (h : BeforeConstruction ack found s) (l : Label) :
    BeforeConstruction ack found (goto l s) :=
  ⟨h.ack, h.slot, h.quiet, h.disarmed⟩

theorem BeforeConstruction.dropMoves (h : BeforeConstruction ack found s) :
    BeforeConstruction ack found (dropMoves s) :=
  ⟨h.ack, h.slot, h.quiet, h.disarmed⟩

theorem BeforeConstruction.lineWrite (h : BeforeConstruction ack found s) (id : LineId) (v : Level) :
    BeforeConstruction ack found (lineWrite id v s) :=
  ⟨h.ack, h.slot, h.quiet, h.disarmed⟩

theorem BeforeConstruction.lineCfg (h : BeforeConstruction ack found s) (clk dat : LineId) :
    BeforeConstruction ack found (lineCfg clk dat s).2 :=
  ⟨h.ack, h.slot, h.quiet, h.disarmed⟩

/-- The micro-steps before `I6` are quiet. -/
theorem BeforeConstruction.not_ackWait (h : BeforeConstruction ack found s) (c : Context) (hc : s.ctx = some c) :
    c.state ≠ .ackWait :=
  h.quiet c (h.slot ▸ hc)

theorem Constructed.goto (h : Constructed c s) (l : Label) : Constructed c (goto l s) :=
  ⟨h.slot, h.ready, h.uncounted, h.tagged, h.data, h.clock⟩

theorem Constructed.dropMoves (h : Constructed c s) : Constructed c (dropMoves s) :=
  ⟨h.slot, h.ready, h.uncounted, h.tagged, h.data, h.clock⟩

/-- Asking for the interrupt and arming it leaves the constructed context and the lines alone (R106). -/
theorem Constructed.arm (h : Constructed c s) (dat : LineId) : Constructed c (setArmed (armIrq dat s).2) :=
  ⟨h.slot, h.ready, h.uncounted, h.tagged, h.data, h.clock⟩

/-- The micro-steps after `I6` are quiet. -/
theorem Constructed.not_ackWait (h : Constructed c s) (c' : Context) (hc : s.ctx = some c') : c'.state ≠ .ackWait := by
  obtain rfl : c = c' := Option.some.inj (h.slot.symm.trans hc)
  simp [h.ready]

/-- An error response with an empty slot meets R108, and so does any refusal where the slot was found occupied. -/
theorem initPost_of_error {st : Status} (hst : st ≠ .ok) (h : found = none → s.ctx = none) :
    InitPost ack found (respond st 0#16 s) := by
  refine ⟨fun hok => absurd (eq_ok_of_statusCode_eq ?_) hst, fun _ he => ?_⟩
  · simpa [respStatus] using hok
  · simp [ctxValid, respHandle, h he]

/-- A refusal by one of the checks `I0` to `I3` ends the command with the slot as it was found. -/
theorem BeforeConstruction.refuse {n : Nat} {st : Status} (h : BeforeConstruction ack found s) (hst : st ≠ .ok) :
    EndsWithin n (InitPost ack found) (respond st 0#16 s) :=
  endsWithin_respond (initPost_of_error hst fun he => h.slot.trans he)

/-- `I8` answers `OK` with the tag of the constructed context. -/
theorem microI8_ends (h : Constructed c s) (ha : s.armed = ack) :
    EndsWithin 0 (InitPost ack found) (microI8 s) := by
  have hm : microI8 s = respond .ok c.selfTag s := by simp [microI8, withCtx, h.slot]
  rw [hm]
  refine endsWithin_respond ⟨fun _ => ?_, fun hne => absurd (by simp [respStatus]) hne⟩
  exact ⟨by simp [ctxValid, h.slot], h.data, h.clock, ha, c, h.slot, by simp [respHandle], h.tagged, h.ready,
    h.uncounted⟩

/-- `I7` arms exactly when asked to, and where arming fails it empties the slot before it responds (R106). -/
theorem microI7_ends (h : Constructed c s) (he : c.ackEnabled = ack) (ha : s.armed = false) :
    EndsWithin 1 (InitPost ack found) (microI7 s) := by
  simp only [microI7, withCtx, h.slot, he]
  cases ack with
  | false =>
    have onward := h.goto .i8
    exact endsWithin_tick (by simp) onward.not_ackWait (microI8_ends onward.dropMoves ha)
  | true =>
    simp only [if_true]
    split
    · have onward := (h.arm c.dataLine).goto .i8
      exact endsWithin_tick (by simp) onward.not_ackWait (microI8_ends onward.dropMoves rfl)
    · exact endsWithin_respond (initPost_of_error (by decide) fun _ => rfl)

/-- `I6` constructs the context (R105). -/
theorem microI6_ends (h : BeforeConstruction ack none s) (hd : s.sdaDrv = some true) (hc : s.sclDrv = some true) :
    EndsWithin 2 (InitPost ack none) (microI6 s) := by
  have constructed : Constructed (freshContext (drawTag s).1 s) (microI6 s) :=
    ⟨rfl, rfl, rfl, tagOfDraw_ne_zero _, hd, hc⟩
  exact endsWithin_tick (by simp [microI6]) constructed.not_ackWait
    (microI7_ends constructed.dropMoves h.ack (h.disarmed rfl))

/-- `I5` drives the clock line high, and the data line stays high even where the two are one line (R104). -/
theorem microI5_ends (h : BeforeConstruction ack none s) (hd : s.sdaDrv = some true) :
    EndsWithin 3 (InitPost ack none) (microI5 s) := by
  have onward := (h.lineWrite (cmdClockLine s) true).goto .i6
  refine endsWithin_tick (by simp [microI5]) onward.not_ackWait (microI6_ends onward.dropMoves ?_ ?_)
  · simp [dropMoves, hd, microI5]
  · simp [dropMoves, busClockLine, h.slot, microI5]

/-- `I4` drives the data line high (R104). -/
theorem microI4_ends (h : BeforeConstruction ack none s) : EndsWithin 4 (InitPost ack none) (microI4 s) := by
  have onward := (h.lineWrite (cmdDataLine s) true).goto .i5
  refine endsWithin_tick (by simp [microI4]) onward.not_ackWait (microI5_ends onward.dropMoves ?_)
  simp [dropMoves, busDataLine, h.slot, microI4]

/-- `I3` goes on only where the slot is empty and the lines are configured (R107). -/
theorem microI3_ends (h : BeforeConstruction ack found s) : EndsWithin 5 (InitPost ack found) (microI3 s) := by
  unfold microI3
  split
  · exact h.refuse (by decide)
  · next hempty =>
    obtain rfl : found = none := by simpa [ctxValid, h.slot] using hempty
    have configured := h.lineCfg (cmdClockLine s) (cmdDataLine s)
    simp only
    split
    · have onward := configured.goto .i4
      exact endsWithin_tick (by simp) onward.not_ackWait (microI4_ends onward.dropMoves)
    · exact configured.refuse (by decide)

/-- `I2` refuses the address or goes on (R102). -/
theorem microI2_ends (h : BeforeConstruction ack found s) : EndsWithin 6 (InitPost ack found) (microI2 s) := by
  have onward := h.goto .i3
  unfold microI2
  split
  · exact h.refuse (by decide)
  · split
    · exact h.refuse (by decide)
    · exact endsWithin_tick (by simp) onward.not_ackWait (microI3_ends onward.dropMoves)

/-- `I1` refuses the lines or goes on (R101). -/
theorem microI1_ends (h : BeforeConstruction ack found s) : EndsWithin 7 (InitPost ack found) (microI1 s) := by
  have onward := h.goto .i2
  unfold microI1
  split
  · exact endsWithin_tick (by simp) onward.not_ackWait (microI2_ends onward.dropMoves)
  · exact h.refuse (by decide)

/-- `I0` refuses the output-handle slot or goes on (R101). -/
theorem microI0_ends (h : BeforeConstruction ack found s) : EndsWithin 8 (InitPost ack found) (microI0 s) := by
  have onward := h.goto .i1
  unfold microI0
  split
  · exact endsWithin_tick (by simp) onward.not_ackWait (microI1_ends onward.dropMoves)
  · exact h.refuse (by decide)

end

/-- An accepted `INIT` starts before the construction, under the invariant. -/
theorem beforeConstruction_accept (ack slotOk : Bool) (a : Byte) (clk dat : LineId) {s : State} (hu : s.upc = .idle)
    (hi : inv s = true) :
    BeforeConstruction ack s.ctx (accept (encode (.init ack slotOk a clk dat)) .i0 (fgView s)) :=
  ⟨fieldAck_wordI .., rfl, ctx_not_ackWait_of_inv hu hi, disarmed_of_inv hi⟩

/-- Settles O24: each micro-step of `INIT` either hands on what the next one needs or responds with R108 met, and the
view hides nothing that R108 speaks of. -/
theorem initLeavesNoPartialContext : Obligations.InitLeavesNoPartialContext := by
  intro ack slotOk a clk dat s hu hi
  have start := beforeConstruction_accept ack slotOk a clk dat hu hi
  have ends : EndsWithin 9 (InitPost ack s.ctx) (accept (encode (.init ack slotOk a clk dat)) .i0 (fgView s)) :=
    endsWithin_tick (by simp) start.not_ackWait (microI0_ends start.dropMoves)
  exact runCommand_endsWithin (by decide) hu ends

end Sys2Proof.Machine
end

section
/-! PROOFS. The grid of `Transition` (R122, R124): one rule per kind of request, and the grid as lists of pairs. -/

namespace Sys2Proof.Machine

/-! ## One rule per kind of request -/

/-- A request for the current state writes nothing (R122). -/
theorem transition_self (c : Context) : transition c.state c = (.ok, c) := by
  simp [transition]

/-- The identity is not an edge, so each edge names a state other than the current one (R123). -/
theorem ne_of_mem_legalEdges : ∀ p ∈ legalEdges, p.2 ≠ p.1 := by decide

/-- A legal edge is taken, and only the state changes (R122). -/
theorem transition_legal {q : ProtoState} {c : Context} (hlegal : (c.state, q) ∈ legalEdges) :
    transition q c = (.ok, { c with state := q }) := by
  have hne : q ≠ c.state := ne_of_mem_legalEdges _ hlegal
  simp [transition, hne, hlegal]

/-- Any other request is refused, and the context is as it was (R122). -/
theorem transition_illegal {q : ProtoState} {c : Context} (hne : q ≠ c.state) (hillegal : (c.state, q) ∉ legalEdges) :
    transition q c = (.invalidTransition, c) := by
  simp [transition, hne, hillegal]

/-! ## The refusals of the grid -/

/-- The twelve refused pairs of the grid, by current state (R124). -/
def refusedPairs : List (ProtoState × ProtoState) :=
  [(.ready, .ackWait), (.ready, .write), (.ready, .stop), (.start, .ready), (.start, .stop), (.ackWait, .ready),
   (.ackWait, .start), (.ackWait, .stop), (.write, .ready), (.write, .start), (.stop, .start), (.stop, .ackWait)]

/-- A refused pair of the grid is neither the identity nor a legal edge (R124). -/
theorem not_legal_of_mem_refusedPairs : ∀ p ∈ refusedPairs, p.2 ≠ p.1 ∧ p ∉ legalEdges := by decide

/-- A refused pair of the grid is refused (R124). -/
theorem transition_refused {q : ProtoState} {c : Context} (h : (c.state, q) ∈ refusedPairs) :
    transition q c = (.invalidTransition, c) := by
  obtain ⟨hne, hillegal⟩ := not_legal_of_mem_refusedPairs _ h
  exact transition_illegal hne hillegal

/-- Settles O18: the statement's first list is `legalEdges`, its second is `refusedPairs`. -/
theorem transitionFollowsTheGrid : Obligations.TransitionFollowsTheGrid := fun c =>
  ⟨transition_self c, fun _ hlegal => transition_legal hlegal, fun _ hrefused => transition_refused hrefused⟩

end Sys2Proof.Machine
end

section
/-! PROOFS. What the environment and the handler may change at a boundary (R42), as `EnvironmentChange` says it. -/

namespace Sys2Proof

open Sys2Proof.Machine

/-- Of two handler runs in a row at most the first is effective (R151). -/
theorem handlerMayChange.trans {c c' c'' : Context} (h : handlerMayChange c c') (h' : handlerMayChange c' c'') :
    handlerMayChange c c'' := by
  obtain rfl | ⟨hs, rfl⟩ := h
  · exact h'
  · obtain rfl | ⟨hs', -⟩ := h'
    · exact .inr ⟨hs, rfl⟩
    · cases hs'

namespace EnvironmentChange

/-- With the slot left alone, the pending bit, the script of moves and any edges and handler runs in the trace are the
other agents' to change. -/
theorem of_ctx_eq (s : State) (p : Bool) (tr : List Event) (ms : List (List Move))
    (htr : tr.filter foregroundEvent = fgTrace s) :
    EnvironmentChange s { s with irqPending := p, trace := tr, env := { s.env with moves := ms } } := by
  refine ⟨rfl, ?_, rfl, rfl, rfl, rfl, rfl, rfl, rfl, rfl, rfl, rfl, rfl, htr, rfl, rfl, rfl, rfl, rfl⟩
  cases hc : s.ctx with
  | none => exact .inl ⟨rfl, rfl⟩
  | some c => exact .inr ⟨c, c, rfl, rfl, .inl rfl⟩

theorem refl (s : State) : EnvironmentChange s s := of_ctx_eq s s.irqPending s.trace s.env.moves rfl

/-- Changes of the slot compose. -/
theorem ctx_trans {s t u : State} (h : EnvironmentChange s t) (h' : EnvironmentChange t u) :
    (s.ctx = none ∧ u.ctx = none) ∨ ∃ c c', s.ctx = some c ∧ u.ctx = some c' ∧ handlerMayChange c c' := by
  obtain ⟨hs, ht⟩ | ⟨c, c₁, hs, ht, hm⟩ := h.ctx <;> obtain ⟨ht', hu⟩ | ⟨c₂, c', ht', hu, hm'⟩ := h'.ctx
  · exact .inl ⟨hs, hu⟩
  · cases ht.symm.trans ht'
  · cases ht.symm.trans ht'
  · obtain rfl : c₁ = c₂ := Option.some.inj (ht.symm.trans ht')
    exact .inr ⟨c, c', hs, hu, hm.trans hm'⟩

theorem trans {s t u : State} (h : EnvironmentChange s t) (h' : EnvironmentChange t u) : EnvironmentChange s u where
  cfg := h'.cfg.trans h.cfg
  ctx := h.ctx_trans h'
  armed := h'.armed.trans h.armed
  sdaDrv := h'.sdaDrv.trans h.sdaDrv
  sclDrv := h'.sclDrv.trans h.sclDrv
  upc := h'.upc.trans h.upc
  txbyte := h'.txbyte.trans h.txbyte
  bitidx := h'.bitidx.trans h.bitidx
  ret := h'.ret.trans h.ret
  acked := h'.acked.trans h.acked
  result := h'.result.trans h.result
  cmd := h'.cmd.trans h.cmd
  resp := h'.resp.trans h.resp
  trace := h'.trace.trans h.trace
  turns := h'.turns.trans h.turns
  cfgAnswers := h'.cfgAnswers.trans h.cfgAnswers
  armAnswers := h'.armAnswers.trans h.armAnswers
  tagDraws := h'.tagDraws.trans h.tagDraws
  draws := h'.draws.trans h.draws

/-- The other agents leave the line shadows alone. -/
theorem shadows {s t : State} (h : EnvironmentChange s t) : shadows t = shadows s := by
  simp [Sys2Proof.shadows, h.sdaDrv, h.sclDrv]

end EnvironmentChange

end Sys2Proof

namespace Sys2Proof.Machine

/-- An edge (R191). -/
theorem environmentChange_raiseEdge (s : State) : EnvironmentChange s (raiseEdge s) :=
  EnvironmentChange.of_ctx_eq s _ _ s.env.moves (filter_append_other s.trace .edge rfl)

/-- A handler run, effective or not (R151, R153). -/
theorem environmentChange_ackIrq (s : State) : EnvironmentChange s (ackIrq s) := by
  cases hc : s.ctx with
  | none =>
    have heq : ackIrq s = { s with irqPending := false } := by simp [ackIrq, withCtx, hc]
    exact heq ▸ EnvironmentChange.of_ctx_eq s false s.trace s.env.moves rfl
  | some c =>
    by_cases hs : c.state = .ackWait
    · rw [ackIrq_taken s c hc hs]
      exact ⟨rfl, .inr ⟨c, _, hc, rfl, .inr ⟨hs, rfl⟩⟩, rfl, rfl, rfl, rfl, rfl, rfl, rfl, rfl, rfl, rfl, rfl,
        filter_append_other s.trace _ rfl, rfl, rfl, rfl, rfl, rfl⟩
    · rw [ackIrq_ignored s c hc hs]
      exact EnvironmentChange.of_ctx_eq s false _ s.env.moves (filter_append_other s.trace _ rfl)

/-- A run of the handler where it is enabled (R193). -/
theorem environmentChange_serveIfEnabled (s : State) : EnvironmentChange s (serveIfEnabled s) := by
  unfold serveIfEnabled
  split
  · exact environmentChange_ackIrq s
  · exact .refl s

/-- A list of moves (R60). -/
theorem environmentChange_applyMoves (ms : List Move) (s : State) : EnvironmentChange s (applyMoves ms s) := by
  induction ms generalizing s with
  | nil => exact .refl s
  | cons m ms ih =>
    cases m with
    | edge => exact (environmentChange_raiseEdge s).trans (ih _)
    | serve => exact (environmentChange_serveIfEnabled s).trans (ih _)

/-- The service discipline, prompt or lazy (R193, R199). -/
theorem environmentChange_servicePending (s : State) : EnvironmentChange s (servicePending s) := by
  unfold servicePending
  split
  · exact environmentChange_serveIfEnabled s
  · exact .refl s

/-- A whole boundary (R60). -/
theorem environmentChange_boundary (s : State) : EnvironmentChange s (boundary s) := by
  have drop : EnvironmentChange s { s with env := { s.env with moves := s.env.moves.tail } } :=
    EnvironmentChange.of_ctx_eq s s.irqPending s.trace s.env.moves.tail rfl
  exact (drop.trans (environmentChange_applyMoves _ _)).trans (environmentChange_servicePending _)

end Sys2Proof.Machine
end

section
/-! PROOFS. SendByte run micro-step by micro-step across its boundaries, to its exit state (R131, R137). -/

namespace Sys2Proof.Machine

/-! ## The micro-steps of SendByte with a context in the slot (R131) -/

section
variable {s : State} {c : Context}

theorem fgStep_b0 (hu : s.upc = .b0) (hc : s.ctx = some c) :
    fgStep s = goto .b1 (lineWrite c.dataLine (txBit s) s) := by
  simp [fgStep, hu, microB0, withCtx, hc]

theorem fgStep_b1 (hu : s.upc = .b1) (hc : s.ctx = some c) :
    fgStep s = goto .b2 (lineWrite c.clockLine true s) := by
  simp [fgStep, hu, microB1, withCtx, hc]

theorem fgStep_b2_next (hu : s.upc = .b2) (hc : s.ctx = some c) (hb : s.bitidx ≠ 0) :
    fgStep s = goto .b0 (setBitidx (s.bitidx - 1) (lineWrite c.clockLine false s)) := by
  simp [fgStep, hu, microB2, withCtx, hc, hb]

theorem fgStep_b2_last (hu : s.upc = .b2) (hc : s.ctx = some c) (hb : s.bitidx = 0) :
    fgStep s = goto .a0 (lineWrite c.clockLine false s) := by
  simp [fgStep, hu, microB2, withCtx, hc, hb]

theorem fgStep_a0_legal (hu : s.upc = .a0) (hc : s.ctx = some c) (hq : (c.state, .ackWait) ∈ legalEdges) :
    fgStep s = goto .a1 (setCtx { c with state := .ackWait } s) := by
  simp [fgStep, hu, microA0, withCtx, hc, transition_legal hq]

theorem fgStep_a1 (hu : s.upc = .a1) (hc : s.ctx = some c) :
    fgStep s = goto .a2 (lineWrite c.dataLine true s) := by
  simp [fgStep, hu, microA1, withCtx, hc]

theorem fgStep_a2 (hu : s.upc = .a2) (hc : s.ctx = some c) :
    fgStep s = goto .a3 (lineWrite c.clockLine true s) := by
  simp [fgStep, hu, microA2, withCtx, hc]

theorem fgStep_a3 (hu : s.upc = .a3) (hc : s.ctx = some c) :
    fgStep s = goto .a4 (lineWrite c.clockLine false s) := by
  simp [fgStep, hu, microA3, withCtx, hc]

theorem fgStep_a4 (hu : s.upc = .a4) (hc : s.ctx = some c) :
    fgStep s = goto .a5 (lineWrite c.dataLine false s) := by
  simp [fgStep, hu, microA4, withCtx, hc]

theorem fgStep_a5 (hu : s.upc = .a5) : fgStep s = goto .a6 (delay .tAckSettle s) := by
  simp [fgStep, hu, microA5]

theorem fgStep_a6 (hu : s.upc = .a6) (hc : s.ctx = some c) : fgStep s = goto .a7 (sampleAck c s) := by
  simp [fgStep, hu, microA6, withCtx, hc]

theorem fgStep_a7_ok (hu : s.upc = .a7) (hc : s.ctx = some c) (ha : s.acked = true) :
    fgStep s = goto (returnLabel s.ret) (setResult .ok s) := by
  simp [fgStep, hu, microA7, withCtx, hc, ha]

end

/-! ## What holds between two micro-steps -/

/-- SendByte, called to return to `r`, stands at the label `l` with `bitidx = n`, and its context is in the state `q` or
in `Write`. With `q = AckWait` this is the acknowledge phase, in which the handler may have run. -/
structure SendingAt (l : Label) (r : ReturnLabel) (n : Nat) (q : ProtoState) (s : State) : Prop where
  upc    : s.upc = l
  ret    : s.ret = r
  bitidx : s.bitidx.val = n
  ctx    : ∃ c, s.ctx = some c ∧ (c.state = q ∨ c.state = .write)

/-- SendByte has returned to `r`: the exit conditions of R137. -/
structure SendByteReturned (r : ReturnLabel) (s : State) : Prop where
  upc    : s.upc = returnLabel r
  result : s.result = .ok ∨ s.result = .nack
  low    : shadows s = (some false, some false)
  bitidx : s.bitidx = 0
  ctx    : ∃ c, s.ctx = some c ∧ c.state = .write

section
variable {l : Label} {r : ReturnLabel} {n : Nat} {q : ProtoState} {s t : State}

/-- The one change the other agents can make to the protocol state leads to `Write` (R151), so they keep `SendingAt`. -/
theorem SendingAt.environmentChange (h : SendingAt l r n q s) (e : EnvironmentChange s t) : SendingAt l r n q t := by
  refine ⟨e.upc.trans h.upc, e.ret.trans h.ret, (congrArg _ e.bitidx).trans h.bitidx, ?_⟩
  obtain ⟨c, hc, hq⟩ := h.ctx
  obtain ⟨hnone, -⟩ | ⟨c₀, c', hs, ht, hm⟩ := e.ctx
  · cases hc.symm.trans hnone
  · obtain rfl : c = c₀ := Option.some.inj (hc.symm.trans hs)
    obtain rfl | ⟨-, rfl⟩ := hm
    · exact ⟨c', ht, hq⟩
    · exact ⟨_, ht, .inr rfl⟩

/-- A tick of SendByte is its micro-step in a state `t` that the other agents made of `s`. -/
theorem SendingAt.tick_eq (h : SendingAt l r n q s) (hl : l ≠ .idle) :
    ∃ t c, tick s = fgStep t ∧ EnvironmentChange s t ∧ SendingAt l r n q t ∧
      t.ctx = some c ∧ (c.state = q ∨ c.state = .write) := by
  have change := environmentChange_boundary s
  have here := h.environmentChange change
  obtain ⟨c, hc, hq⟩ := here.ctx
  exact ⟨boundary s, c, tick_busy s (h.upc ▸ hl), change, here, hc, hq⟩

/-- A line write and a jump move SendByte to another label and nothing else. -/
theorem SendingAt.goto_lineWrite (h : SendingAt l r n q s) (l' : Label) (id : LineId) (v : Level) :
    SendingAt l' r n q (goto l' (lineWrite id v s)) :=
  ⟨rfl, h.ret, h.bitidx, h.ctx⟩

/-! ## The data bits (R132) -/

theorem SendingAt.tick_b0 (h : SendingAt .b0 r n q s) : SendingAt .b1 r n q (tick s) := by
  obtain ⟨t, c, heq, -, ht, hc, -⟩ := h.tick_eq (by decide)
  rw [heq, fgStep_b0 ht.upc hc]
  exact ht.goto_lineWrite ..

theorem SendingAt.tick_b1 (h : SendingAt .b1 r n q s) : SendingAt .b2 r n q (tick s) := by
  obtain ⟨t, c, heq, -, ht, hc, -⟩ := h.tick_eq (by decide)
  rw [heq, fgStep_b1 ht.upc hc]
  exact ht.goto_lineWrite ..

theorem SendingAt.tick_b2_next (h : SendingAt .b2 r (n + 1) q s) : SendingAt .b0 r n q (tick s) := by
  obtain ⟨t, c, heq, -, ht, hc, -⟩ := h.tick_eq (by decide)
  have hval := ht.bitidx
  have hb : t.bitidx ≠ 0 := by intro h0; simp [h0] at hval
  rw [heq, fgStep_b2_next ht.upc hc hb]
  refine ⟨rfl, ht.ret, ?_, ht.ctx⟩
  have hpred := Fin.val_sub_one_of_ne_zero hb
  simp only [goto_bitidx, setBitidx_bitidx]
  omega

theorem SendingAt.tick_b2_last (h : SendingAt .b2 r 0 q s) : SendingAt .a0 r 0 q (tick s) := by
  obtain ⟨t, c, heq, -, ht, hc, -⟩ := h.tick_eq (by decide)
  rw [heq, fgStep_b2_last ht.upc hc (Fin.ext ht.bitidx)]
  exact ht.goto_lineWrite ..

/-- From bit `n` the data bits take `3 * (n + 1)` micro-steps to `A0`. -/
theorem SendingAt.ticks_bits (h : SendingAt .b0 r n q s) : SendingAt .a0 r 0 q (ticks (3 * (n + 1)) s) := by
  induction n generalizing s with
  | zero => exact h.tick_b0.tick_b1.tick_b2_last
  | succ n ih =>
    rw [show 3 * (n + 1 + 1) = 3 + 3 * (n + 1) by omega, ticks_add]
    exact ih h.tick_b0.tick_b1.tick_b2_next

/-! ## The acknowledge phase (R134 to R136) -/

/-- `A0` finds `Start` or `Write`, and from both the window opens (R134). -/
theorem SendingAt.tick_a0 (h : SendingAt .a0 r n .start s) : SendingAt .a1 r n .ackWait (tick s) := by
  obtain ⟨t, c, heq, -, ht, hc, hq⟩ := h.tick_eq (by decide)
  have hlegal : (c.state, .ackWait) ∈ legalEdges := by
    obtain hq | hq := hq <;> rw [hq] <;> decide
  rw [heq, fgStep_a0_legal ht.upc hc hlegal]
  exact ⟨rfl, ht.ret, ht.bitidx, _, rfl, .inl rfl⟩

theorem SendingAt.tick_a1 (h : SendingAt .a1 r n q s) : SendingAt .a2 r n q (tick s) := by
  obtain ⟨t, c, heq, -, ht, hc, -⟩ := h.tick_eq (by decide)
  rw [heq, fgStep_a1 ht.upc hc]
  exact ht.goto_lineWrite ..

theorem SendingAt.tick_a2 (h : SendingAt .a2 r n q s) : SendingAt .a3 r n q (tick s) := by
  obtain ⟨t, c, heq, -, ht, hc, -⟩ := h.tick_eq (by decide)
  rw [heq, fgStep_a2 ht.upc hc]
  exact ht.goto_lineWrite ..

/-- `A3` ends the ninth clock pulse. -/
theorem SendingAt.tick_a3 (h : SendingAt .a3 r n q s) :
    SendingAt .a4 r n q (tick s) ∧ (tick s).sclDrv = some false := by
  obtain ⟨t, c, heq, -, ht, hc, -⟩ := h.tick_eq (by decide)
  rw [heq, fgStep_a3 ht.upc hc]
  exact ⟨ht.goto_lineWrite .., by simp [busClockLine, hc]⟩

/-- `A4` pulls the data line low, and the clock line stays low even where the two are one line. -/
theorem SendingAt.tick_a4 (h : SendingAt .a4 r n q s) (hscl : s.sclDrv = some false) :
    SendingAt .a5 r n q (tick s) ∧ shadows (tick s) = (some false, some false) := by
  obtain ⟨t, c, heq, change, ht, hc, -⟩ := h.tick_eq (by decide)
  rw [heq, fgStep_a4 ht.upc hc]
  exact ⟨ht.goto_lineWrite .., by simp [shadows, busDataLine, hc, change.sclDrv, hscl]⟩

theorem SendingAt.tick_a5 (h : SendingAt .a5 r n q s) :
    SendingAt .a6 r n q (tick s) ∧ shadows (tick s) = shadows s := by
  obtain ⟨t, c, heq, change, ht, -, -⟩ := h.tick_eq (by decide)
  rw [heq, fgStep_a5 ht.upc]
  exact ⟨⟨rfl, ht.ret, ht.bitidx, ht.ctx⟩, change.shadows⟩

/-- After the sample of `A6` a positive copy means that the state is `Write` (R136). -/
theorem SendingAt.tick_a6 (h : SendingAt .a6 r n .ackWait s) :
    SendingAt .a7 r n .ackWait (tick s) ∧ ((tick s).acked = true → SendingAt .a7 r n .write (tick s)) ∧
      shadows (tick s) = shadows s := by
  obtain ⟨t, c, heq, change, ht, hc, hq⟩ := h.tick_eq (by decide)
  rw [heq, fgStep_a6 ht.upc hc]
  refine ⟨⟨rfl, ht.ret, ht.bitidx, ht.ctx⟩, fun ha => ?_, change.shadows⟩
  have hne : c.state ≠ .ackWait := by simpa using ha
  exact ⟨rfl, ht.ret, ht.bitidx, c, hc, .inr (hq.resolve_left hne)⟩

/-- `A7` returns in `Write`: found there after a positive sample, forced there after a negative one (R136). -/
theorem SendingAt.tick_a7 (h : SendingAt .a7 r 0 q s) (hacked : s.acked = true → SendingAt .a7 r 0 .write s)
    (hlow : shadows s = (some false, some false)) : SendByteReturned r (tick s) := by
  obtain ⟨t, c, heq, change, ht, hc, -⟩ := h.tick_eq (by decide)
  have low : shadows t = (some false, some false) := change.shadows.trans hlow
  have last : t.bitidx = 0 := Fin.ext ht.bitidx
  have label : returnLabel t.ret = returnLabel r := congrArg _ ht.ret
  rw [heq]
  cases ha : t.acked with
  | true =>
    obtain ⟨c', hc', hw⟩ := ((hacked (change.acked.symm.trans ha)).environmentChange change).ctx
    rw [fgStep_a7_ok ht.upc hc ha]
    exact ⟨label, .inl rfl, low, last, c', hc', or_self_iff.mp hw⟩
  | false =>
    rw [fgStep_a7_nack t c ht.upc hc ha]
    exact ⟨label, .inr rfl, low, last, _, rfl, rfl⟩

/-- From `A0` the acknowledge phase takes 8 micro-steps. -/
theorem SendingAt.ticks_ackPhase (h : SendingAt .a0 r 0 .start s) : SendByteReturned r (ticks 8 s) := by
  obtain ⟨at4, scl4⟩ := h.tick_a0.tick_a1.tick_a2.tick_a3
  obtain ⟨at5, low5⟩ := at4.tick_a4 scl4
  obtain ⟨at6, low6⟩ := at5.tick_a5
  obtain ⟨at7, acked7, low7⟩ := at6.tick_a6
  exact at7.tick_a7 acked7 (low7.trans (low6.trans low5))

/-- Called from `Start` or `Write`, SendByte returns after 32 micro-steps. -/
theorem SendingAt.ticks_sendByte (h : SendingAt .b0 r 7 .start s) : SendByteReturned r (ticks 32 s) := by
  rw [show 32 = 24 + 8 from rfl, ticks_add]
  exact h.ticks_bits.ticks_ackPhase

end

/-- Settles O36: between the micro-steps of SendByte the other agents can only move `AckWait` to `Write`, so both ways
out of `A7` lead to the exit state of R137. -/
theorem sendByteLeavesTheStateUsable : Obligations.SendByteLeavesTheStateUsable := by
  intro s c hu hb hc hq
  have entered : SendingAt .b0 s.ret 7 .start s := ⟨hu, rfl, congrArg _ hb, c, hc, hq⟩
  obtain ⟨upc, result, low, bitidx, c', hc', hw⟩ := entered.ticks_sendByte
  obtain ⟨sda, scl⟩ := Prod.mk.inj low
  have usable : ∀ p ∈ [ProtoState.stop, .ackWait], (ProtoState.write, p) ∈ legalEdges := by decide
  exact ⟨upc, result, sda, scl, bitidx, c', hc', hw, transition_legal (hw ▸ usable .stop (by decide)),
    transition_legal (hw ▸ usable .ackWait (by decide))⟩

end Sys2Proof.Machine
end

section
/-! PROOFS. The handler's run (R151), and the counter, which counts the taken runs and which no decision reads (R154). -/

namespace Sys2Proof.Machine

/-- Settles O43: the two branches of the handler are its taken and its ignored run. -/
theorem handlerRunTakesOnlyItsOneEdge : Obligations.HandlerRunTakesOnlyItsOneEdge :=
  fun s c hc => ⟨ackIrq_taken s c hc, ackIrq_ignored s c hc⟩

/-! ## A context with a higher counter: the shared operations -/

section
variable (k : Nat) (s : State)

@[simp] theorem addCount_upc : (addCount k s).upc = s.upc := rfl
@[simp] theorem addCount_env : (addCount k s).env = s.env := rfl
@[simp] theorem addCount_cfg : (addCount k s).cfg = s.cfg := rfl

@[simp] theorem addCount_cmdHandle : cmdHandle (addCount k s) = cmdHandle s := rfl
@[simp] theorem addCount_cmdClockLine : cmdClockLine (addCount k s) = cmdClockLine s := rfl
@[simp] theorem addCount_cmdDataLine : cmdDataLine (addCount k s) = cmdDataLine s := rfl

@[simp] theorem addCount_ctxValid : ctxValid (addCount k s) = ctxValid s := Option.isSome_map

@[simp] theorem addCount_handlerEnabled : handlerEnabled (addCount k s) = handlerEnabled s := by
  unfold handlerEnabled
  rw [addCount_ctxValid]
  rfl

/-- `HandleOk` compares the tag and does not read the counter (R111). -/
@[simp] theorem addCount_handleOk (h : Handle) : handleOk h (addCount k s) = handleOk h s := by
  unfold handleOk addCount
  cases s.ctx <;> rfl

/-- The lines of the bus are those of the context, whatever its counter (R52). -/
@[simp] theorem addCount_busDataLine : busDataLine (addCount k s) = busDataLine s := by
  unfold busDataLine addCount
  cases s.ctx <;> rfl

@[simp] theorem addCount_busClockLine : busClockLine (addCount k s) = busClockLine s := by
  unfold busClockLine addCount
  cases s.ctx <;> rfl

theorem lineWrite_addCount (id : LineId) (v : Level) :
    lineWrite id v (addCount k s) = addCount k (lineWrite id v s) := by
  unfold lineWrite
  rw [addCount_busDataLine, addCount_busClockLine]
  rfl

theorem lineCfg_addCount (clk dat : LineId) :
    lineCfg clk dat (addCount k s) = ((lineCfg clk dat s).1, addCount k (lineCfg clk dat s).2) := rfl

theorem armIrq_addCount (dat : LineId) :
    armIrq dat (addCount k s) = ((armIrq dat s).1, addCount k (armIrq dat s).2) := rfl

/-- Reading the context commutes with a higher counter, where what is done with it does. -/
theorem withCtx_addCount (f g : Context → State)
    (h : ∀ c, g { c with ackEventCount := c.ackEventCount + k } = addCount k (f c)) :
    withCtx (addCount k s) g = addCount k (withCtx s f) := by
  unfold withCtx
  cases hc : s.ctx with
  | none => simp [addCount, hc]
  | some c => simpa [addCount, hc] using h c

/-- `Transition` reads the protocol state only (R121 to R124). -/
theorem transition_addCount (q : ProtoState) (c : Context) :
    transition q { c with ackEventCount := c.ackEventCount + k } =
      ((transition q c).1, { (transition q c).2 with ackEventCount := (transition q c).2.ackEventCount + k }) := by
  unfold transition
  split
  · rfl
  · split <;> rfl

theorem ite_addCount (p : Prop) [Decidable p] {a b a' b' : State} (ha : a' = addCount k a) (hb : b' = addCount k b) :
    (if p then a' else b') = addCount k (if p then a else b) := by
  split <;> assumption

theorem handleCheck_addCount (l : Label) : handleCheck l (addCount k s) = addCount k (handleCheck l s) := by
  unfold handleCheck
  rw [addCount_cmdHandle, addCount_handleOk]
  exact ite_addCount k _ rfl rfl

theorem entryTransition_addCount (q : ProtoState) (l : Label) :
    entryTransition q l (addCount k s) = addCount k (entryTransition q l s) := by
  refine withCtx_addCount k s _ _ fun c => ?_
  simp only [transition_addCount]
  exact ite_addCount k _ rfl rfl

/-! ## A context with a higher counter: the handler, the foreground, and a run -/

/-- The handler increments the counter and does not read it (R151, R154). -/
theorem ackIrq_addCount : ackIrq (addCount k s) = addCount k (ackIrq s) := by
  refine withCtx_addCount k { s with irqPending := false } _ _ fun c => ite_addCount k _ ?_ rfl
  simp only [Nat.add_right_comm c.ackEventCount k 1]
  rfl

theorem serveIfEnabled_addCount : serveIfEnabled (addCount k s) = addCount k (serveIfEnabled s) := by
  unfold serveIfEnabled
  rw [addCount_handlerEnabled]
  exact ite_addCount k _ (ackIrq_addCount k s) rfl

theorem applyMoves_addCount (ms : List Move) : applyMoves ms (addCount k s) = addCount k (applyMoves ms s) := by
  induction ms generalizing s with
  | nil => rfl
  | cons m ms ih =>
    cases m with
    | edge => exact ih (raiseEdge s)
    | serve => exact (congrArg (applyMoves ms) (serveIfEnabled_addCount k s)).trans (ih (serveIfEnabled s))

theorem servicePending_addCount : servicePending (addCount k s) = addCount k (servicePending s) := by
  unfold servicePending
  rw [addCount_cfg]
  split
  · exact serveIfEnabled_addCount k s
  · rfl

theorem boundary_addCount : boundary (addCount k s) = addCount k (boundary s) :=
  (congrArg servicePending (applyMoves_addCount k { s with env := { s.env with moves := s.env.moves.tail } } _)).trans
    (servicePending_addCount k _)

/-- No micro-step of the foreground reads the counter, and none but the construction of `I6` writes it (R42, R154). -/
theorem fgStep_addCount (hu : s.upc ≠ .i6) : fgStep (addCount k s) = addCount k (fgStep s) := by
  unfold fgStep
  rw [addCount_upc]
  cases hl : s.upc with
  | i6 => exact absurd hl hu
  | i0 | i1 | f0 => exact ite_addCount k _ rfl rfl
  | i2 => exact ite_addCount k _ rfl (ite_addCount k _ rfl rfl)
  | i3 =>
    simp only [microI3, addCount_ctxValid, addCount_cmdClockLine, addCount_cmdDataLine, lineCfg_addCount]
    refine ite_addCount k _ rfl ?_
    split <;> rfl
  | i7 =>
    refine withCtx_addCount k s _ _ fun c => ite_addCount k _ ?_ rfl
    simp only [armIrq_addCount]
    split <;> rfl
  | f1 | s0 | w0 | p0 => exact handleCheck_addCount k s _
  | s1 | w1 | p1 => exact entryTransition_addCount k s _ _
  | w3 =>
    refine withCtx_addCount k s _ _ fun c => ?_
    simp only [transition_addCount]
    rfl
  | a0 =>
    refine withCtx_addCount k s _ _ fun c => ?_
    simp only [transition_addCount]
    exact ite_addCount k _ rfl rfl
  | b2 =>
    refine withCtx_addCount k s _ _ fun c => ?_
    simp only [lineWrite_addCount]
    exact ite_addCount k _ rfl rfl
  | a7 => exact withCtx_addCount k s _ _ fun c => ite_addCount k _ rfl rfl
  | s2 | s4 | p2 | p4 | b0 | b1 | a1 | a2 | a3 | a4 =>
    exact withCtx_addCount k s _ _ fun c => congrArg (goto _) (lineWrite_addCount k s _ _)
  | i4 | i5 => exact congrArg (goto _) (lineWrite_addCount k s _ _)
  | i8 | s5 | a6 => exact withCtx_addCount k s _ _ fun c => rfl
  | idle | f2 | x0 | s3 | s6 | w2 | w4 | p3 | p5 | p6 | a5 => rfl

theorem tick_addCount (hu : s.upc ≠ .i6) : tick (addCount k s) = addCount k (tick s) := by
  by_cases hi : s.upc = .idle
  · rw [tick_idle s hi, tick_idle (addCount k s) hi]
  · rw [tick_busy s hi, tick_busy (addCount k s) hi, boundary_addCount, fgStep_addCount]
    rwa [(environmentChange_boundary s).upc]

end

/-! ## What holds of a context that was live when the command was accepted -/

/-- How many handler runs of the trace found `AckWait`. -/
def takenRuns (s : State) : Nat := s.trace.count (.irq .taken)

/-- The slot holds a context whose counter has risen from `n` by as many as the taken runs of the trace from `m`. -/
def CountedFrom (n m : Nat) (s : State) : Prop :=
  ∃ c, s.ctx = some c ∧ n ≤ c.ackEventCount ∧ c.ackEventCount + m = n + takenRuns s

/-- The labels between the check for a free slot and the construction of a context (R101, `I4` to `I6`). -/
def constructionLabels : List Label := [.i4, .i5, .i6]

/-- The live context stays, counted, and no other is under construction; or it is released and the command has ended. -/
def CountedOrReleased (n m : Nat) (s : State) : Prop :=
  (CountedFrom n m s ∧ s.upc ∉ constructionLabels) ∨ (s.ctx = none ∧ s.upc = .idle)

section
variable {n m : Nat} {s : State}

/-- An event other than a taken run is not counted. -/
theorem count_taken_append {e : Event} (he : e ≠ .irq .taken) (l : List Event) :
    (l ++ [e]).count (.irq .taken) = l.count (.irq .taken) := by
  simp [List.count_append, he]

/-- What keeps the slot and the number of taken runs keeps the count. -/
theorem CountedFrom.congr {t : State} (h : CountedFrom n m s) (hc : t.ctx = s.ctx)
    (ht : takenRuns t = takenRuns s) : CountedFrom n m t := by
  unfold CountedFrom
  rwa [hc, ht]

theorem CountedFrom.lineWrite (h : CountedFrom n m s) (id : LineId) (v : Level) :
    CountedFrom n m (lineWrite id v s) :=
  h.congr rfl (count_taken_append (by simp) _)

theorem CountedFrom.delay (h : CountedFrom n m s) (i : Interval) : CountedFrom n m (delay i s) :=
  h.congr rfl (count_taken_append (by simp) _)

theorem CountedFrom.armIrq (h : CountedFrom n m s) (dat : LineId) : CountedFrom n m (armIrq dat s).2 :=
  h.congr rfl (count_taken_append (by simp) _)

theorem CountedFrom.accept (h : CountedFrom n m s) (w : Word) (l : Label) : CountedFrom n m (accept w l s) :=
  h.congr rfl (count_taken_append (by simp) _)

/-- A context written with the counter of the one it replaces keeps the count. -/
theorem CountedFrom.setCtx {c c' : Context} (h : CountedFrom n m s) (hc : s.ctx = some c)
    (hcount : c'.ackEventCount = c.ackEventCount) : CountedFrom n m (setCtx c' s) := by
  obtain ⟨c₀, hc₀, hle, heq⟩ := h
  obtain rfl : c = c₀ := Option.some.inj (hc.symm.trans hc₀)
  exact ⟨c', rfl, hcount ▸ hle, hcount ▸ heq⟩

/-- `Transition` never writes the counter (R42). -/
theorem transition_ackEventCount (q : ProtoState) (c : Context) :
    (transition q c).2.ackEventCount = c.ackEventCount := by
  unfold transition
  split
  · rfl
  · split <;> rfl

/-! ## The other agents -/

theorem CountedFrom.raiseEdge (h : CountedFrom n m s) : CountedFrom n m (raiseEdge s) :=
  h.congr rfl (count_taken_append (by simp) _)

/-- A taken run raises the counter and the number of taken runs by one, an ignored one neither (R151). -/
theorem CountedFrom.ackIrq (h : CountedFrom n m s) : CountedFrom n m (ackIrq s) := by
  have ⟨c, hc, hle, heq⟩ := h
  by_cases hs : c.state = .ackWait
  · rw [ackIrq_taken s c hc hs]
    refine ⟨_, rfl, Nat.le_succ_of_le hle, ?_⟩
    simp only [takenRuns, List.count_append, List.count_singleton_self] at heq ⊢
    omega
  · rw [ackIrq_ignored s c hc hs]
    exact h.congr rfl (count_taken_append (by simp) _)

theorem CountedFrom.serveIfEnabled (h : CountedFrom n m s) : CountedFrom n m (serveIfEnabled s) := by
  unfold Machine.serveIfEnabled
  split
  · exact h.ackIrq
  · exact h

theorem CountedFrom.applyMoves (h : CountedFrom n m s) (ms : List Move) : CountedFrom n m (applyMoves ms s) := by
  induction ms generalizing s with
  | nil => exact h
  | cons mv ms ih =>
    cases mv with
    | edge => exact ih h.raiseEdge
    | serve => exact ih h.serveIfEnabled

theorem CountedFrom.boundary (h : CountedFrom n m s) : CountedFrom n m (boundary s) := by
  have moved := CountedFrom.applyMoves (s := { s with env := { s.env with moves := s.env.moves.tail } }) h
    (s.env.moves.headD [])
  unfold Machine.boundary servicePending
  split
  · exact moved.serveIfEnabled
  · exact moved

/-! ## The foreground -/

theorem idle_not_construction : Label.idle ∉ constructionLabels := by decide

theorem returnLabel_not_construction (r : ReturnLabel) : returnLabel r ∉ constructionLabels := by
  cases r <;> decide

theorem CountedFrom.enterSendByte (h : CountedFrom n m s) (b : Byte) (r : ReturnLabel) :
    CountedOrReleased n m (enterSendByte b r s) :=
  .inl ⟨h, show Label.b0 ∉ constructionLabels by decide⟩

/-- A jump to a label outside the construction. -/
theorem CountedFrom.goto (h : CountedFrom n m s) {l : Label} (hl : l ∉ constructionLabels) :
    CountedOrReleased n m (goto l s) :=
  .inl ⟨h, hl⟩

theorem CountedFrom.respond (h : CountedFrom n m s) (st : Status) (hd : Handle) :
    CountedOrReleased n m (respond st hd s) :=
  .inl ⟨h.congr rfl (count_taken_append (by simp) _), idle_not_construction⟩

theorem CountedFrom.handleCheck (h : CountedFrom n m s) {l : Label} (hl : l ∉ constructionLabels) :
    CountedOrReleased n m (handleCheck l s) := by
  unfold Machine.handleCheck
  split
  · exact h.goto hl
  · exact h.respond _ _

/-- A micro-step that reads the context of a counted state. -/
theorem CountedFrom.withCtx (h : CountedFrom n m s) {f : Context → State}
    (hf : ∀ c, s.ctx = some c → CountedOrReleased n m (f c)) : CountedOrReleased n m (withCtx s f) := by
  obtain ⟨c, hc, -⟩ := h
  simpa [Machine.withCtx, hc] using hf c hc

theorem CountedFrom.entryTransition (h : CountedFrom n m s) (q : ProtoState) {l : Label}
    (hl : l ∉ constructionLabels) : CountedOrReleased n m (entryTransition q l s) := by
  refine h.withCtx fun c hc => ?_
  dsimp only
  split
  · exact (h.setCtx hc (transition_ackEventCount q c)).goto hl
  · exact h.respond _ _

/-- No micro-step of the foreground takes a handler run, writes the counter of a live context, or goes on to the
construction of another (R42, R107). -/
theorem CountedFrom.fgStep (h : CountedFrom n m s) (hu : s.upc ∉ constructionLabels) :
    CountedOrReleased n m (fgStep s) := by
  have line : ∀ {l : Label} (id : Context → LineId) (v : Level), l ∉ constructionLabels →
      CountedOrReleased n m (Machine.withCtx s fun c => Machine.goto l (Machine.lineWrite (id c) v s)) :=
    fun id v hl => h.withCtx fun c _ => (h.lineWrite (id c) v).goto hl
  unfold Machine.fgStep
  cases hl : s.upc with
  | idle => exact .inl ⟨h, hu⟩
  | i4 | i5 | i6 => simp [hl, constructionLabels] at hu
  | i0 | i1 =>
    simp only [microI0, microI1]
    split
    · exact h.goto (by decide)
    · exact h.respond _ _
  | i2 =>
    simp only [microI2]
    split
    · exact h.respond _ _
    · split
      · exact h.respond _ _
      · exact h.goto (by decide)
  | i3 =>
    have ⟨c, hc, _⟩ := h
    simpa [microI3, ctxValid, hc] using h.respond .alloc 0#16
  | i7 =>
    refine h.withCtx fun c _ => ?_
    dsimp only
    split
    · split
      · exact (h.armIrq c.dataLine).goto (by decide)
      · exact .inr ⟨rfl, rfl⟩
    · exact h.goto (by decide)
  | i8 => exact h.withCtx fun c _ => h.respond _ _
  | f0 =>
    simp only [microF0]
    split
    · exact h.respond _ _
    · exact h.goto (by decide)
  | f2 => exact .inr ⟨rfl, rfl⟩
  | f1 | s0 | w0 | p0 => exact h.handleCheck (by decide)
  | s1 | w1 | p1 => exact h.entryTransition _ (by decide)
  | s2 | p4 | b0 | a1 | a4 => exact line (·.dataLine) _ (by decide)
  | s4 | p2 | b1 | a2 | a3 => exact line (·.clockLine) _ (by decide)
  | s3 | p3 | p5 | a5 => exact (h.delay _).goto (by decide)
  | s5 => exact h.withCtx fun c _ => h.enterSendByte _ _
  | w2 => exact h.enterSendByte _ _
  | s6 | w4 | p6 | x0 => exact h.respond _ _
  | w3 => exact h.withCtx fun c hc => (h.setCtx hc (transition_ackEventCount .stop c)).goto (by decide)
  | b2 =>
    refine h.withCtx fun c _ => ?_
    dsimp only
    split
    · exact (h.lineWrite _ _).goto (by decide)
    · exact (h.lineWrite c.clockLine false).goto (s := setBitidx _ _) (by decide)
  | a0 =>
    refine h.withCtx fun c hc => ?_
    dsimp only
    split
    · exact (h.setCtx hc (transition_ackEventCount .ackWait c)).goto (by decide)
    · exact h.goto (s := setResult _ _) (returnLabel_not_construction _)
  | a6 => exact h.withCtx fun c _ => h.goto (s := sampleAck c s) (by decide)
  | a7 =>
    refine h.withCtx fun c hc => ?_
    split
    · exact h.goto (s := setResult _ _) (returnLabel_not_construction _)
    · have forced : CountedFrom n m (Machine.setCtx { c with state := .write } s) := h.setCtx hc rfl
      exact forced.goto (s := setResult _ _) (returnLabel_not_construction _)

/-! ## Runs -/

theorem CountedOrReleased.tick (h : CountedOrReleased n m s) : CountedOrReleased n m (tick s) := by
  by_cases hi : s.upc = .idle
  · rwa [tick_idle s hi]
  · obtain ⟨counted, hu⟩ | ⟨-, idle⟩ := h
    · rw [tick_busy s hi]
      exact counted.boundary.fgStep ((environmentChange_boundary s).upc ▸ hu)
    · exact absurd idle hi

theorem CountedOrReleased.ticks (h : CountedOrReleased n m s) (j : Nat) : CountedOrReleased n m (ticks j s) := by
  induction j generalizing s with
  | zero => exact h
  | succ j ih => exact ih h.tick

theorem CountedOrReleased.ne_i6 (h : CountedOrReleased n m s) : s.upc ≠ .i6 := by
  intro hu
  obtain ⟨-, hl⟩ | ⟨-, hl⟩ := h
  · exact hl (hu ▸ by decide)
  · cases hu.symm.trans hl

/-- While no other context is constructed, a run from a higher counter is the same run with the counter higher. -/
theorem CountedOrReleased.ticks_addCount (h : CountedOrReleased n m s) (k j : Nat) :
    Machine.ticks j (addCount k s) = addCount k (Machine.ticks j s) := by
  induction j generalizing s with
  | zero => rfl
  | succ j ih => rw [ticks_succ, ticks_succ, tick_addCount k s h.ne_i6, ih h.tick]

/-- A live context, counted from its own counter and its own trace. -/
theorem countedFrom_self {c : Context} (hc : s.ctx = some c) : CountedFrom c.ackEventCount (takenRuns s) s :=
  ⟨c, hc, Nat.le_refl _, rfl⟩

/-- A live context when a command word is accepted. -/
theorem countedOrReleased_accept {c : Context} (hc : s.ctx = some c) (w : Word) {l : Label}
    (hl : l ∉ constructionLabels) :
    CountedOrReleased c.ackEventCount (takenRuns s) (accept w l (dropTurn s)) :=
  .inl ⟨CountedFrom.accept (s := dropTurn s) (countedFrom_self hc) w l, hl⟩

end

/-! ## A step from `Idle` -/

/-- An instruction is the run of its micro-program (R74). -/
theorem exec_eq_runCommand (i : Instr) (s : State) : exec i s = runCommand (encode i) (firstLabel i) s := by
  cases i <;> rfl

theorem firstLabel_not_construction (i : Instr) : firstLabel i ∉ constructionLabels := by
  cases i <;> simp [firstLabel, constructionLabels]

/-- What a step from `Idle` does with the host's turns `ts`: it runs a command from the start of a micro-program, or the
other agents act at `Idle` (R60, R70). -/
theorem step_of_turns (ts : List HostTurn) :
    (∃ w l, l ∉ constructionLabels ∧ ∀ s : State, s.upc = .idle → s.env.turns = ts →
      step s = .next (finish (accept w l (dropTurn s)))) ∨
    (∀ s : State, s.upc = .idle → s.env.turns = ts → step s = .next (boundary (dropTurn s))) := by
  have idle : ∀ s : State, s.upc = .idle → idleTurn s = .next (boundary s) := fun s hu => by
    simp [idleTurn, hu, finish_idle]
  rcases ts with - | ⟨w | -, ts⟩
  · refine .inr fun s hu ht => ?_
    have hd : dropTurn s = s := by
      have : s.env.turns.tail = s.env.turns := by rw [ht]; rfl
      simp [dropTurn, this]
    simp [step, ht, idle s hu, hd]
  · left
    cases hw : decode w with
    | ok i =>
      refine ⟨encode i, firstLabel i, firstLabel_not_construction i, fun s hu ht => ?_⟩
      simp [step, ht, hw, exec_eq_runCommand, runCommand_idle _ _ (dropTurn s) hu]
    | error e =>
      refine ⟨w, .x0, by decide, fun s hu ht => ?_⟩
      simp [step, ht, hw, execIllegal, runCommand_idle _ _ (dropTurn s) hu]
  · exact .inr fun s hu ht => by simp [step, ht, idle (dropTurn s) hu]

/-- After a step from `Idle` the context is counted from before the step, or the slot is empty. -/
theorem countedFrom_or_empty_of_step {s t : State} {c : Context} (hu : s.upc = .idle) (hc : s.ctx = some c)
    (ht : step s = .next t) : CountedFrom c.ackEventCount (takenRuns s) t ∨ t.ctx = none := by
  obtain ⟨w, l, hl, hstep⟩ | hstep := step_of_turns s.env.turns
  · obtain rfl : finish (accept w l (dropTurn s)) = t := by simpa [hstep s hu rfl] using ht
    exact ((countedOrReleased_accept hc w hl).ticks maxMicroSteps).imp (·.1) (·.1)
  · obtain rfl : boundary (dropTurn s) = t := by simpa [hstep s hu rfl] using ht
    exact .inl (CountedFrom.boundary (s := dropTurn s) (countedFrom_self hc))

/-- A step from `Idle` does not depend on the counter of the live context. -/
theorem step_addCount (k : Nat) {s : State} {c : Context} (hu : s.upc = .idle) (hc : s.ctx = some c) :
    step (addCount k s) = mapNext (addCount k) (step s) := by
  obtain ⟨w, l, hl, hstep⟩ | hstep := step_of_turns s.env.turns
  · rw [hstep s hu rfl, hstep (addCount k s) hu rfl]
    exact congrArg _ ((countedOrReleased_accept hc w hl).ticks_addCount k maxMicroSteps)
  · rw [hstep s hu rfl, hstep (addCount k s) hu rfl]
    exact congrArg _ (boundary_addCount k (dropTurn s))

/-- Settles O51: a live context is counted along with the taken runs of the trace at every micro-step until it is
released, and no command constructs another beside it. -/
theorem counterOnlyCountsTheTakenRuns : Obligations.CounterOnlyCountsTheTakenRuns := by
  refine ⟨fun s t c c' hu ht hc hc' => ?_, fun k s hu hv => ?_⟩
  · obtain ⟨c₁, hc₁, hle, heq⟩ | hnone := countedFrom_or_empty_of_step hu hc ht
    · obtain rfl : c' = c₁ := Option.some.inj (hc'.symm.trans hc₁)
      exact ⟨hle, heq⟩
    · cases hnone.symm.trans hc'
  · obtain ⟨c, hc⟩ := Option.isSome_iff_exists.mp hv
    exact step_addCount k hu hc

end Sys2Proof.Machine
end

section
/-! PROOFS. Commands run while the acknowledge interrupt is disarmed: no handler runs, so the context is the
foreground's alone and every sample of `A6` finds `AckWait` (R234). -/

namespace Sys2Proof.Machine

/-! ## A boundary while the interrupt is disarmed -/

/-- With a live context, `armed` is its `ackEnabled` between commands (R30). -/
theorem armed_eq_ackEnabled_of_inv {s : State} {c : Context} (hu : s.upc = .idle) (hi : inv s = true)
    (hc : s.ctx = some c) : s.armed = c.ackEnabled := by
  simp only [inv, armedInv, hc, hu, Bool.and_eq_true] at hi
  obtain ⟨⟨⟨-, harmed⟩, -⟩, -⟩ := hi
  simpa using harmed

theorem applyMoves_ctx_of_disarmed (ms : List Move) {s : State} (h : s.armed = false) :
    (applyMoves ms s).ctx = s.ctx := by
  induction ms generalizing s with
  | nil => rfl
  | cons m ms ih =>
    cases m with
    | edge => exact ih (s := raiseEdge s) h
    | serve =>
      have skip : applyMoves (.serve :: ms) s = applyMoves ms s :=
        congrArg (applyMoves ms) (serveIfEnabled_disarmed s h)
      exact (congrArg _ skip).trans (ih h)

theorem servicePending_disarmed {s : State} (h : s.armed = false) : servicePending s = s := by
  unfold servicePending
  split
  · exact serveIfEnabled_disarmed s h
  · rfl

/-- Disarmed, the other agents leave even `AckWait` alone. -/
theorem boundary_ctx_of_disarmed {s : State} (h : s.armed = false) : (boundary s).ctx = s.ctx := by
  have moved := environmentChange_applyMoves (s.env.moves.headD [])
    { s with env := { s.env with moves := s.env.moves.tail } }
  rw [boundary, servicePending_disarmed (moved.armed.trans h)]
  exact applyMoves_ctx_of_disarmed _ h

/-! ## What holds between two micro-steps -/

/-- The command `w` stands at the label `l` with the interrupt disarmed, the context `c`, the byte `b` in the
transmitter and the foreground's events `tr`. -/
structure DisarmedAt (l : Label) (c : Context) (w : Word) (b : Byte) (tr : List Event) (s : State) : Prop where
  upc   : s.upc = l
  slot  : s.ctx = some c
  armed : s.armed = false
  cmd   : s.cmd = w
  byte  : s.txbyte = b
  trace : fgTrace s = tr

/-- The command has ended with `E_NACK` for the handle `h`, the context `c` in the slot and the foreground's events
`tr` before the response. -/
structure AnsweredNack (c : Context) (h : Handle) (tr : List Event) (s : State) : Prop where
  upc   : s.upc = .idle
  slot  : s.ctx = some c
  resp  : s.resp = responseWord .nack h
  trace : fgTrace s = tr ++ [.resp .nack h]

section
variable {l l' : Label} {c : Context} {w : Word} {b : Byte} {tr : List Event} {s : State} {r : ReturnLabel} {n : Nat}
  {q : ProtoState}

theorem DisarmedAt.goto (h : DisarmedAt l c w b tr s) (l' : Label) : DisarmedAt l' c w b tr (goto l' s) :=
  ⟨rfl, h.slot, h.armed, h.cmd, h.byte, h.trace⟩

theorem DisarmedAt.setCtx (h : DisarmedAt l c w b tr s) (c' : Context) : DisarmedAt l c' w b tr (setCtx c' s) :=
  ⟨h.upc, rfl, h.armed, h.cmd, h.byte, h.trace⟩

theorem DisarmedAt.enterSendByte (h : DisarmedAt l c w b tr s) (b' : Byte) (r : ReturnLabel) :
    DisarmedAt .b0 c w b' tr (enterSendByte b' r s) :=
  ⟨rfl, h.slot, h.armed, h.cmd, rfl, h.trace⟩

/-- An event of the foreground is added to its trace. -/
theorem fgTrace_append {e : Event} (he : foregroundEvent e = true) (h : fgTrace s = tr) :
    (s.trace ++ [e]).filter foregroundEvent = tr ++ [e] :=
  h ▸ filter_append_foreground s.trace e he

theorem DisarmedAt.lineWrite (h : DisarmedAt l c w b tr s) (id : LineId) (v : Level) :
    DisarmedAt l c w b (tr ++ [.lineWrite id v]) (lineWrite id v s) :=
  ⟨h.upc, h.slot, h.armed, h.cmd, h.byte, fgTrace_append rfl h.trace⟩

theorem DisarmedAt.delay (h : DisarmedAt l c w b tr s) (i : Interval) :
    DisarmedAt l c w b (tr ++ [.delay i]) (delay i s) :=
  ⟨h.upc, h.slot, h.armed, h.cmd, h.byte, fgTrace_append rfl h.trace⟩

/-- A tick is its micro-step in a state `t` of which everything the foreground knew still holds. -/
theorem DisarmedAt.tick_eq (h : DisarmedAt l c w b tr s) (hl : l ≠ .idle) :
    ∃ t, tick s = fgStep t ∧ EnvironmentChange s t ∧ DisarmedAt l c w b tr t := by
  have change := environmentChange_boundary s
  exact ⟨boundary s, tick_busy s (h.upc ▸ hl), change, change.upc.trans h.upc,
    (boundary_ctx_of_disarmed h.armed).trans h.slot, change.armed.trans h.armed, change.cmd.trans h.cmd,
    change.txbyte.trans h.byte, change.trace.trans h.trace⟩

/-! ## One rule per kind of micro-step -/

theorem DisarmedAt.tick_lineWrite {id : LineId} {v : Level} (h : DisarmedAt l c w b tr s) (hl : l ≠ .idle)
    (step : ∀ t, EnvironmentChange s t → DisarmedAt l c w b tr t →
      fgStep t = Machine.goto l' (Machine.lineWrite id v t)) :
    DisarmedAt l' c w b (tr ++ [.lineWrite id v]) (tick s) := by
  obtain ⟨t, heq, change, ht⟩ := h.tick_eq hl
  rw [heq, step t change ht]
  exact (ht.lineWrite id v).goto l'

theorem DisarmedAt.tick_delay {i : Interval} (h : DisarmedAt l c w b tr s) (hl : l ≠ .idle)
    (step : ∀ t, DisarmedAt l c w b tr t → fgStep t = Machine.goto l' (Machine.delay i t)) :
    DisarmedAt l' c w b (tr ++ [.delay i]) (tick s) := by
  obtain ⟨t, heq, -, ht⟩ := h.tick_eq hl
  rw [heq, step t ht]
  exact (ht.delay i).goto l'

/-- The handle check of the live context's own handle is passed (R175). -/
theorem DisarmedAt.tick_handleCheck (h : DisarmedAt l c w b tr s) (hl : l ≠ .idle) (hw : fieldHandle w = c.selfTag)
    (step : ∀ t, DisarmedAt l c w b tr t → fgStep t = handleCheck l' t) :
    DisarmedAt l' c w b tr (tick s) := by
  obtain ⟨t, heq, -, ht⟩ := h.tick_eq hl
  have pass : handleOk (cmdHandle t) t = true := by simp [handleOk, cmdHandle, ht.slot, ht.cmd, hw]
  rw [heq, step t ht, handleCheck, if_pos pass]
  exact ht.goto l'

/-- A granted entry transition moves the protocol state (R122). -/
theorem DisarmedAt.tick_entryTransition (h : DisarmedAt l c w b tr s) (hl : l ≠ .idle)
    (grant : transition q c = (.ok, { c with state := q }))
    (step : ∀ t, DisarmedAt l c w b tr t → fgStep t = entryTransition q l' t) :
    DisarmedAt l' { c with state := q } w b tr (tick s) := by
  obtain ⟨t, heq, -, ht⟩ := h.tick_eq hl
  have taken : entryTransition q l' t = Machine.goto l' (Machine.setCtx { c with state := q } t) := by
    simp [entryTransition, withCtx, ht.slot, grant]
  rw [heq, step t ht, taken]
  exact (ht.setCtx _).goto l'

/-- The answer of an envelope operation is SendByte's (R160, R165). -/
theorem DisarmedAt.tick_respond (h : DisarmedAt l c w b tr s) (hl : l ≠ .idle) (hr : s.result = .nack)
    (step : ∀ t, DisarmedAt l c w b tr t → fgStep t = respond t.result (cmdHandle t) t) :
    AnsweredNack c (fieldHandle w) tr (tick s) := by
  obtain ⟨t, heq, change, ht⟩ := h.tick_eq hl
  rw [heq, step t ht, change.result.trans hr, cmdHandle, ht.cmd]
  exact ⟨rfl, ht.slot, rfl, fgTrace_append rfl ht.trace⟩

/-! ## The data bits (R132) -/

/-- The events of the data bits from bit `n` down to bit 0. -/
def dataBitEvents (clk dat : LineId) (b : Byte) : Nat → List Event
  | 0 => bitEvents clk dat (b.getLsbD 0)
  | n + 1 => bitEvents clk dat (b.getLsbD (n + 1)) ++ dataBitEvents clk dat b n

/-- From bit 7 they are the eight bits in the order of the wire (R54). -/
theorem dataBitEvents_seven (clk dat : LineId) (b : Byte) :
    dataBitEvents clk dat b 7 = (msbFirst b).flatMap (bitEvents clk dat) := rfl

/-- `B0` and `B1` of bit `n`. -/
theorem DisarmedAt.ticks_b0_b1 (h : DisarmedAt .b0 c w b tr s) (here : SendingAt .b0 r n q s) :
    DisarmedAt .b2 c w b (tr ++ [.lineWrite c.dataLine (b.getLsbD n)] ++ [.lineWrite c.clockLine true])
      (tick (tick s)) := by
  have bit : DisarmedAt .b1 c w b (tr ++ [.lineWrite c.dataLine (b.getLsbD n)]) (tick s) :=
    h.tick_lineWrite (by decide) fun t change ht => by
      rw [fgStep_b0 ht.upc ht.slot, txBit, ht.byte, change.bitidx, here.bitidx]
  exact bit.tick_lineWrite (by decide) fun t _ ht => fgStep_b1 ht.upc ht.slot

/-- `B2` of a bit other than bit 0. -/
theorem DisarmedAt.tick_b2_next (h : DisarmedAt .b2 c w b tr s) (hb : s.bitidx ≠ 0) :
    DisarmedAt .b0 c w b (tr ++ [.lineWrite c.clockLine false]) (tick s) := by
  obtain ⟨t, heq, change, ht⟩ := h.tick_eq (by decide)
  rw [heq, fgStep_b2_next ht.upc ht.slot (change.bitidx ▸ hb)]
  obtain ⟨-, slot, armed, cmd, byte, trace⟩ := ht.lineWrite c.clockLine false
  exact ⟨rfl, slot, armed, cmd, byte, trace⟩

/-- `B2` of bit 0. -/
theorem DisarmedAt.tick_b2_last (h : DisarmedAt .b2 c w b tr s) (hb : s.bitidx = 0) :
    DisarmedAt .a0 c w b (tr ++ [.lineWrite c.clockLine false]) (tick s) :=
  h.tick_lineWrite (by decide) fun _ change ht => fgStep_b2_last ht.upc ht.slot (change.bitidx.trans hb)

/-- The data bits from bit `n`, with their events. -/
theorem DisarmedAt.ticks_bits (h : DisarmedAt .b0 c w b tr s) (here : SendingAt .b0 r n q s) :
    DisarmedAt .a0 c w b (tr ++ dataBitEvents c.clockLine c.dataLine b n) (ticks (3 * (n + 1)) s) := by
  induction n generalizing s tr with
  | zero =>
    have last := (h.ticks_b0_b1 here).tick_b2_last (Fin.ext here.tick_b0.tick_b1.bitidx)
    simpa [dataBitEvents, bitEvents, ticks] using last
  | succ n ih =>
    have sending := here.tick_b0.tick_b1
    have hb : (tick (tick s)).bitidx ≠ 0 := fun h0 => by simpa [h0] using sending.bitidx
    have next := (h.ticks_b0_b1 here).tick_b2_next hb
    rw [show 3 * (n + 1 + 1) = 3 + 3 * (n + 1) by omega, ticks_add]
    simpa [dataBitEvents, bitEvents, ticks] using ih next sending.tick_b2_next

/-! ## The acknowledge phase (R134 to R136) -/

theorem DisarmedAt.tick_a0 (h : DisarmedAt .a0 c w b tr s) (hq : (c.state, .ackWait) ∈ legalEdges) :
    DisarmedAt .a1 { c with state := .ackWait } w b tr (tick s) := by
  obtain ⟨t, heq, -, ht⟩ := h.tick_eq (by decide)
  rw [heq, fgStep_a0_legal ht.upc ht.slot hq]
  exact (ht.setCtx _).goto .a1

/-- The ninth clock pulse and the settle interval, `A1` to `A5`, with their events. -/
theorem DisarmedAt.ticks_ninthClock (h : DisarmedAt .a1 c w b tr s) :
    DisarmedAt .a6 c w b (tr ++ ackEvents c.clockLine c.dataLine) (ticks 5 s) := by
  have at2 := h.tick_lineWrite (by decide) fun _ _ ht => fgStep_a1 ht.upc ht.slot
  have at3 := at2.tick_lineWrite (by decide) fun _ _ ht => fgStep_a2 ht.upc ht.slot
  have at4 := at3.tick_lineWrite (by decide) fun _ _ ht => fgStep_a3 ht.upc ht.slot
  have at5 := at4.tick_lineWrite (by decide) fun _ _ ht => fgStep_a4 ht.upc ht.slot
  have at6 := at5.tick_delay (by decide) fun _ ht => fgStep_a5 ht.upc
  simpa [ackEvents, ticks] using at6

/-- The sample of `A6` is negative where the state is still `AckWait` (R136). -/
theorem DisarmedAt.tick_a6 (h : DisarmedAt .a6 c w b tr s) (hq : c.state = .ackWait) :
    DisarmedAt .a7 c w b tr (tick s) ∧ (tick s).acked = false := by
  obtain ⟨t, heq, -, ht⟩ := h.tick_eq (by decide)
  rw [heq, fgStep_a6 ht.upc ht.slot]
  exact ⟨⟨rfl, ht.slot, ht.armed, ht.cmd, ht.byte, ht.trace⟩, by simp [hq]⟩

/-- `A7` after a negative sample returns `E_NACK` in `Write` (R136). -/
theorem DisarmedAt.tick_a7 (h : DisarmedAt .a7 c w b tr s) (ha : s.acked = false) :
    DisarmedAt (returnLabel s.ret) { c with state := .write } w b tr (tick s) ∧ (tick s).result = .nack := by
  obtain ⟨t, heq, change, ht⟩ := h.tick_eq (by decide)
  rw [heq, fgStep_a7_nack t c ht.upc ht.slot (change.acked.trans ha), change.ret]
  exact ⟨⟨rfl, rfl, ht.armed, ht.cmd, ht.byte, ht.trace⟩, rfl⟩

/-- From `A0` the acknowledge phase ends without an acknowledge, its events on the lines. -/
theorem DisarmedAt.ticks_ackPhase (h : DisarmedAt .a0 c w b tr s) (hq : (c.state, .ackWait) ∈ legalEdges) :
    ∃ l, DisarmedAt l { c with state := .write } w b (tr ++ ackEvents c.clockLine c.dataLine) (ticks 8 s) ∧
      (ticks 8 s).result = .nack := by
  obtain ⟨at7, negative⟩ := (h.tick_a0 hq).ticks_ninthClock.tick_a6 rfl
  exact ⟨_, at7.tick_a7 negative⟩

/-- SendByte of the byte `b`, entered from `Start` or `Write`: all its events are on the lines, and it returns
`E_NACK`. -/
theorem DisarmedAt.ticks_sendByte (h : DisarmedAt .b0 c w b tr s) (here : SendingAt .b0 r 7 .start s) :
    DisarmedAt (returnLabel r) { c with state := .write } w b (tr ++ sendByteEvents c.clockLine c.dataLine b)
      (ticks 32 s) ∧ (ticks 32 s).result = .nack := by
  have legal : (c.state, .ackWait) ∈ legalEdges := by
    obtain ⟨c', hc', hq⟩ := here.ctx
    obtain rfl : c = c' := Option.some.inj (h.slot.symm.trans hc')
    obtain hq | hq := hq <;> rw [hq] <;> decide
  obtain ⟨l, back, nack⟩ := (h.ticks_bits here).ticks_ackPhase legal
  rw [← ticks_add, List.append_assoc, dataBitEvents_seven] at back
  rw [← ticks_add] at nack
  obtain rfl : l = returnLabel r := back.upc.symm.trans here.ticks_sendByte.upc
  exact ⟨back, nack⟩

/-! ## The envelope operations (R160, R165) -/

/-- `S0` to `S4`: the handle check, `Start`, and the Start condition on the lines (R160). -/
theorem DisarmedAt.ticks_startCondition (h : DisarmedAt .s0 c w b tr s) (hw : fieldHandle w = c.selfTag)
    (hq : c.state = .ready) :
    DisarmedAt .s5 { c with state := .start } w b (tr ++ startEvents c.clockLine c.dataLine) (ticks 5 s) := by
  have grant : transition .start c = (.ok, { c with state := .start }) := transition_legal (hq ▸ by decide)
  have at1 := h.tick_handleCheck (l' := .s1) (by decide) hw fun t ht => by simp [fgStep, ht.upc, microS0]
  have at2 := at1.tick_entryTransition (l' := .s2) (by decide) grant fun t ht => by simp [fgStep, ht.upc, microS1]
  have at3 := at2.tick_lineWrite (l' := .s3) (id := c.dataLine) (v := false) (by decide) fun t _ ht => by
    simp [fgStep, ht.upc, microS2, withCtx, ht.slot]
  have at4 := at3.tick_delay (l' := .s4) (i := .tHdSta) (by decide) fun t ht => by simp [fgStep, ht.upc, microS3]
  have at5 := at4.tick_lineWrite (l' := .s5) (id := c.clockLine) (v := false) (by decide) fun t _ ht => by
    simp [fgStep, ht.upc, microS4, withCtx, ht.slot]
  simpa [startEvents, ticks] using at5

/-- `S5` enters SendByte with the address byte (R162). -/
theorem DisarmedAt.tick_s5 (h : DisarmedAt .s5 c w b tr s) (hq : c.state = .start) :
    DisarmedAt .b0 c w (wireAddress c.addrS) tr (tick s) ∧ SendingAt .b0 .s6 7 .start (tick s) := by
  obtain ⟨t, heq, -, ht⟩ := h.tick_eq (by decide)
  have entered : fgStep t = Machine.enterSendByte (wireAddress c.addrS) .s6 t := by
    simp [fgStep, ht.upc, microS5, withCtx, ht.slot]
  rw [heq, entered]
  exact ⟨ht.enterSendByte _ _, rfl, rfl, rfl, c, ht.slot, .inl hq⟩

/-- `START` from `Ready`, disarmed, from its first micro-step to its response. -/
theorem DisarmedAt.ticks_start (h : DisarmedAt .s0 c w b tr s) (hw : fieldHandle w = c.selfTag)
    (hq : c.state = .ready) :
    AnsweredNack { c with state := .write } (fieldHandle w)
      (tr ++ startEvents c.clockLine c.dataLine ++ sendByteEvents c.clockLine c.dataLine (wireAddress c.addrS))
      (ticks 39 s) := by
  obtain ⟨entered, sending⟩ := (h.ticks_startCondition hw hq).tick_s5 rfl
  obtain ⟨back, nack⟩ := entered.ticks_sendByte sending
  exact back.tick_respond (by decide) nack fun t ht => by simp [fgStep, ht.upc, microS6, returnLabel]

/-- `W0` and `W1`: the handle check and `Write`, which may be the state already (R165). -/
theorem DisarmedAt.ticks_writeEntry (h : DisarmedAt .w0 c w b tr s) (hw : fieldHandle w = c.selfTag)
    (hq : c.state = .write ∨ c.state = .stop) :
    DisarmedAt .w2 { c with state := .write } w b tr (ticks 2 s) := by
  have grant : transition .write c = (.ok, { c with state := .write }) := by
    obtain hq | hq := hq
    · exact hq ▸ transition_self c
    · exact transition_legal (hq ▸ by decide)
  have at1 := h.tick_handleCheck (l' := .w1) (by decide) hw fun t ht => by simp [fgStep, ht.upc, microW0]
  exact at1.tick_entryTransition (by decide) grant fun t ht => by simp [fgStep, ht.upc, microW1]

/-- `W2` enters SendByte with the command's byte (R165). -/
theorem DisarmedAt.tick_w2 (h : DisarmedAt .w2 c w b tr s) (hq : c.state = .write) :
    DisarmedAt .b0 c w (fieldByte w) tr (tick s) ∧ SendingAt .b0 .w3 7 .start (tick s) := by
  obtain ⟨t, heq, -, ht⟩ := h.tick_eq (by decide)
  have entered : fgStep t = Machine.enterSendByte (fieldByte w) .w3 t := by
    simp [fgStep, ht.upc, microW2, cmdByte, ht.cmd]
  rw [heq, entered]
  exact ⟨ht.enterSendByte _ _, rfl, rfl, rfl, c, ht.slot, .inr hq⟩

/-- `W3` moves `Write` to `Stop` and leaves SendByte's answer (R166). -/
theorem DisarmedAt.tick_w3 (h : DisarmedAt .w3 c w b tr s) (hq : c.state = .write) :
    DisarmedAt .w4 { c with state := .stop } w b tr (tick s) ∧ (tick s).result = s.result := by
  obtain ⟨t, heq, change, ht⟩ := h.tick_eq (by decide)
  have grant : transition .stop c = (.ok, { c with state := .stop }) := transition_legal (hq ▸ by decide)
  have stopped : fgStep t = Machine.goto .w4 (Machine.setCtx { c with state := .stop } t) := by
    simp [fgStep, ht.upc, microW3, withCtx, ht.slot, grant]
  rw [heq, stopped]
  exact ⟨(ht.setCtx _).goto .w4, change.result⟩

/-- `WRITE` from `Write` or `Stop`, disarmed, from its first micro-step to its response. -/
theorem DisarmedAt.ticks_write (h : DisarmedAt .w0 c w b tr s) (hw : fieldHandle w = c.selfTag)
    (hq : c.state = .write ∨ c.state = .stop) :
    AnsweredNack { c with state := .stop } (fieldHandle w)
      (tr ++ sendByteEvents c.clockLine c.dataLine (fieldByte w)) (ticks 37 s) := by
  obtain ⟨entered, sending⟩ := (h.ticks_writeEntry hw hq).tick_w2 rfl
  obtain ⟨back, nack⟩ := entered.ticks_sendByte sending
  obtain ⟨at4, kept⟩ := back.tick_w3 rfl
  exact at4.tick_respond (by decide) (kept.trans nack) fun t ht => by simp [fgStep, ht.upc, microW4]

end

/-! ## The commands -/

/-- A command word accepted while the interrupt is disarmed (R70). -/
theorem disarmedAt_accept {s : State} {c : Context} (hc : s.ctx = some c) (ha : s.armed = false) (w : Word)
    (l : Label) :
    DisarmedAt l c w s.txbyte (fgTrace s ++ [.cmd w]) (accept w l s) :=
  ⟨rfl, hc, ha, rfl, rfl, fgTrace_append rfl rfl⟩

/-- A handle that passes the check is the context's tag (R111). -/
theorem eq_selfTag_of_handleOk {h : Handle} {s : State} {c : Context} (hh : handleOk h s = true) (hc : s.ctx = some c) :
    h = c.selfTag := by
  simpa [handleOk, hc] using hh

/-- `START` from `Ready` with the interrupt disarmed (R160, R234). -/
theorem exec_start_disarmed {h : Handle} {s : State} {c : Context} (hu : s.upc = .idle) (hh : handleOk h s = true)
    (hc : s.ctx = some c) (ha : s.armed = false) (hq : c.state = .ready) :
    ∃ t, exec (.start h) s = .next t ∧ AnsweredNack { c with state := .write } h
      (fgTrace s ++ [.cmd (encode (.start h))] ++ startEvents c.clockLine c.dataLine ++
        sendByteEvents c.clockLine c.dataLine (wireAddress c.addrS)) t := by
  have field : fieldHandle (encode (.start h)) = h := fieldHandle_wordH _ h
  have ended := (disarmedAt_accept hc ha (encode (.start h)) .s0).ticks_start
    (field.trans (eq_selfTag_of_handleOk hh hc)) hq
  rw [field] at ended
  exact ⟨_, runCommand_of_ticks (by decide) hu rfl ended.upc, ended⟩

/-- `WRITE` from `Write` or `Stop` with the interrupt disarmed (R165, R234). -/
theorem exec_write_disarmed {h : Handle} {s : State} {c : Context} (b : Byte) (hu : s.upc = .idle)
    (hh : handleOk h s = true) (hc : s.ctx = some c) (ha : s.armed = false)
    (hq : c.state = .write ∨ c.state = .stop) :
    ∃ t, exec (.write b h) s = .next t ∧ AnsweredNack { c with state := .stop } h
      (fgTrace s ++ [.cmd (encode (.write b h))] ++ sendByteEvents c.clockLine c.dataLine b) t := by
  have field : fieldHandle (encode (.write b h)) = h := fieldHandle_wordW b h
  have byte : fieldByte (encode (.write b h)) = b := fieldByte_wordW b h
  have ended := (disarmedAt_accept hc ha (encode (.write b h)) .w0).ticks_write
    (field.trans (eq_selfTag_of_handleOk hh hc)) hq
  rw [field, byte] at ended
  exact ⟨_, runCommand_of_ticks (by decide) hu rfl ended.upc, ended⟩

/-- Settles O40: disarmed, no handler runs, so the sample of `A6` finds `AckWait` in every byte, whatever edges the
environment raises. -/
theorem captureDisabledMeansEveryByteReportsNack : Obligations.CaptureDisabledMeansEveryByteReportsNack := by
  intro h s c hu hi hh hc he
  have disarmed : s.armed = false := (armed_eq_ackEnabled_of_inv hu hi hc).trans he
  refine ⟨disarmed, fun hq => ?_, fun b hq => ?_⟩
  · obtain ⟨t, ht, -, slot, resp, trace⟩ := exec_start_disarmed hu hh hc disarmed hq
    exact ⟨t, _, ht, slot, resp, rfl, trace⟩
  · obtain ⟨t, ht, -, slot, resp, trace⟩ := exec_write_disarmed b hu hh hc disarmed hq
    exact ⟨t, _, ht, slot, resp, rfl, trace⟩

end Sys2Proof.Machine
end

section
/-! PROOFS. The decoding table (R75): each row as two fields of the word, what a selected row decodes to, and the
decoder against the encoder and against R76. -/

namespace Sys2Proof

/-! ## Two rows and one word -/

/-- A word that selects two rows agrees with both patterns where both masks look. -/
theorem pattern_agree_of_selected {a b : OpcodeRow} {w : Word} (ha : rowSelected a w = true)
    (hb : rowSelected b w = true) : a.pattern &&& b.mask = b.pattern &&& a.mask := by
  have ha' : w &&& a.mask = a.pattern := by simpa [rowSelected] using ha
  have hb' : w &&& b.mask = b.pattern := by simpa [rowSelected] using hb
  rw [← ha', ← hb', BitVec.and_assoc, BitVec.and_comm a.mask, BitVec.and_assoc]

/-- The patterns of any two rows of the table differ where both masks look (R75). -/
theorem opcodeRows_patterns_differ :
    opcodeRows.Pairwise fun a b => a.pattern &&& b.mask ≠ b.pattern &&& a.mask := by decide

/-- Settles O5: two selected rows would agree where both masks look. -/
theorem decodingRowsAreDisjoint : Obligations.DecodingRowsAreDisjoint := fun _ =>
  opcodeRows_patterns_differ.imp fun differ selected => differ (pattern_agree_of_selected selected.1 selected.2)

/-! ## Rows as fields -/

/-- A row whose mask covers the opcode and the reserved bits `lo` to `lo + len - 1`, and whose pattern is the opcode
`op` and zeros: it is selected by the words with that opcode and zero reserved bits. -/
theorem rowSelected_iff_fields {r : OpcodeRow} {op : BitVec 4} {lo len : Nat} (hlen : lo + len ≤ 28)
    (hmask : ∀ i < 32, r.mask.getLsbD i = decide (28 ≤ i ∨ (lo ≤ i ∧ i < lo + len)))
    (hpattern : ∀ i < 32, r.pattern.getLsbD i = (decide (28 ≤ i) && op.getLsbD (i - 28))) (w : Word) :
    rowSelected r w = true ↔ w.extractLsb' 28 4 = op ∧ w.extractLsb' lo len = 0#len := by
  have bits : rowSelected r w = true ↔ ∀ i < 32, (w.getLsbD i && r.mask.getLsbD i) = r.pattern.getLsbD i := by
    rw [rowSelected, beq_iff_eq]
    exact ⟨fun h i _ => by rw [← h, BitVec.getLsbD_and],
      fun h => BitVec.eq_of_getLsbD_eq fun i hi => by rw [BitVec.getLsbD_and, h i hi]⟩
  rw [bits]
  constructor
  · intro h
    refine ⟨Laws.LegalWord.opcode_eq w op fun i hi => ?_, Laws.LegalWord.reserved_eq w lo len fun i hi => ?_⟩
    · have := h (28 + i) (by omega)
      simpa [hmask (28 + i) (by omega), hpattern (28 + i) (by omega)] using this
    · have := h (lo + i) (by omega)
      have below : ¬ 28 ≤ lo + i := by omega
      simpa [hmask (lo + i) (by omega), hpattern (lo + i) (by omega), below, hi] using this
  · rintro ⟨hop, hres⟩ i hi
    rw [hmask i hi, hpattern i hi]
    by_cases hhigh : 28 ≤ i
    · have bit := congrArg (fun x => x.getLsbD (i - 28)) hop
      have inside : i - 28 < 4 := by omega
      simpa [hhigh, inside, Nat.add_sub_cancel' hhigh] using bit
    · by_cases hmid : lo ≤ i ∧ i < lo + len
      · have bit := congrArg (fun x => x.getLsbD (i - lo)) hres
        have inside : i - lo < len := by omega
        simpa [hhigh, hmid, inside, Nat.add_sub_cancel' hmid.1] using bit
      · simp [hhigh, hmid]

theorem rowInit_selected_iff (w : Word) :
    rowSelected rowInit w = true ↔ w.extractLsb' 28 4 = 1#4 ∧ w.extractLsb' 24 2 = 0#2 :=
  rowSelected_iff_fields (by decide) (by decide) (by decide) w

theorem rowStart_selected_iff (w : Word) :
    rowSelected rowStart w = true ↔ w.extractLsb' 28 4 = 2#4 ∧ w.extractLsb' 16 12 = 0#12 :=
  rowSelected_iff_fields (by decide) (by decide) (by decide) w

theorem rowWrite_selected_iff (w : Word) :
    rowSelected rowWrite w = true ↔ w.extractLsb' 28 4 = 3#4 ∧ w.extractLsb' 24 4 = 0#4 :=
  rowSelected_iff_fields (by decide) (by decide) (by decide) w

theorem rowStop_selected_iff (w : Word) :
    rowSelected rowStop w = true ↔ w.extractLsb' 28 4 = 4#4 ∧ w.extractLsb' 16 12 = 0#12 :=
  rowSelected_iff_fields (by decide) (by decide) (by decide) w

theorem rowFree_selected_iff (w : Word) :
    rowSelected rowFree w = true ↔ w.extractLsb' 28 4 = 5#4 ∧ w.extractLsb' 16 12 = 0#12 :=
  rowSelected_iff_fields (by decide) (by decide) (by decide) w

/-! ## The decoder, row by row -/

/-- The rows of the table with the command each stands for: the word `w` selects the row of the command `i` (R74,
R75). -/
def SelectsRowOf (w : Word) (i : Instr) : Prop :=
  match i with
  | .init ack slotOk a clk dat => rowSelected rowInit w = true ∧ fieldAck w = ack ∧ fieldSlotOk w = slotOk ∧
      fieldPeerAddress w = a ∧ fieldClockLine w = clk ∧ fieldDataLine w = dat
  | .start h => rowSelected rowStart w = true ∧ fieldHandle w = h
  | .write b h => rowSelected rowWrite w = true ∧ fieldByte w = b ∧ fieldHandle w = h
  | .stop h => rowSelected rowStop w = true ∧ fieldHandle w = h
  | .free h => rowSelected rowFree w = true ∧ fieldHandle w = h

/-- The decoder answers a command exactly to the words that select its row with its operands: the order in which it
tries the rows does not matter, because they are disjoint. -/
theorem decode_ok_iff (w : Word) (i : Instr) : decode w = .ok i ↔ SelectsRowOf w i := by
  have rows := decodingRowsAreDisjoint w
  simp only [opcodeRows, List.pairwise_cons, List.mem_cons, forall_eq_or_imp, List.not_mem_nil, false_imp_iff,
    implies_true, and_true, List.Pairwise.nil] at rows
  obtain ⟨⟨init2, init3, init4, init5⟩, ⟨start3, start4, start5⟩, ⟨write4, write5⟩, stop5⟩ := rows
  unfold decode SelectsRowOf
  by_cases h1 : rowSelected rowInit w = true
  · cases i <;> simp_all
  · by_cases h2 : rowSelected rowStart w = true
    · cases i <;> simp_all
    · by_cases h3 : rowSelected rowWrite w = true
      · cases i <;> simp_all
      · by_cases h4 : rowSelected rowStop w = true
        · cases i <;> simp_all
        · by_cases h5 : rowSelected rowFree w = true
          · cases i <;> simp_all
          · cases i <;> simp_all <;> split <;> simp

/-! ## The formats against the rows (R71 to R73) -/

theorem rowInit_selected_wordI (ack slotOk : Bool) (a : Byte) (clk dat : LineId) :
    rowSelected rowInit (wordI ack slotOk a clk dat) = true :=
  (rowInit_selected_iff _).mpr
    ⟨Laws.LegalWord.opcode_eq _ _ fun i hi => by rw [getLsbD_wordI]; interval_cases i <;> simp,
      Laws.LegalWord.reserved_eq _ _ _ fun i hi => by rw [getLsbD_wordI]; interval_cases i <;> simp⟩

theorem rowWrite_selected_wordW (b : Byte) (h : Handle) : rowSelected rowWrite (wordW b h) = true :=
  (rowWrite_selected_iff _).mpr
    ⟨Laws.LegalWord.opcode_eq _ _ fun i hi => by rw [getLsbD_wordW]; interval_cases i <;> simp,
      Laws.LegalWord.reserved_eq _ _ _ fun i hi => by rw [getLsbD_wordW]; interval_cases i <;> simp⟩

theorem fields_wordH (op : BitVec 4) (h : Handle) :
    (wordH op h).extractLsb' 28 4 = op ∧ (wordH op h).extractLsb' 16 12 = 0#12 :=
  ⟨Laws.LegalWord.opcode_eq _ _ fun i hi => by rw [getLsbD_wordH]; interval_cases i <;> simp,
    Laws.LegalWord.reserved_eq _ _ _ fun i hi => by rw [getLsbD_wordH]; interval_cases i <;> simp⟩

/-- The encoder's word selects the row of its instruction, with the instruction's operands. -/
theorem selectsRowOf_encode (i : Instr) : SelectsRowOf (encode i) i := by
  cases i with
  | init ack slotOk a clk dat =>
    exact ⟨rowInit_selected_wordI .., fieldAck_wordI .., fieldSlotOk_wordI .., fieldPeerAddress_wordI ..,
      fieldClockLine_wordI .., fieldDataLine_wordI ..⟩
  | start h => exact ⟨(rowStart_selected_iff _).mpr (fields_wordH 2#4 h), fieldHandle_wordH ..⟩
  | write b h => exact ⟨rowWrite_selected_wordW b h, fieldByte_wordW b h, fieldHandle_wordW b h⟩
  | stop h => exact ⟨(rowStop_selected_iff _).mpr (fields_wordH 4#4 h), fieldHandle_wordH ..⟩
  | free h => exact ⟨(rowFree_selected_iff _).mpr (fields_wordH 5#4 h), fieldHandle_wordH ..⟩

/-- Settles O2: the encoder's word selects its instruction's row, and the decoder answers what that row stands for. -/
theorem decodeOfEncodeIsTheInstruction : Obligations.DecodeOfEncodeIsTheInstruction := fun i _ =>
  (decode_ok_iff _ i).mpr (selectsRowOf_encode i)

/-! ## One word per command -/

/-- A field of a word as a quotient and a remainder. -/
theorem toNat_of_field_eq {w w' : Word} {lo len : Nat} (h : w.extractLsb' lo len = w'.extractLsb' lo len) :
    w.toNat / 2 ^ lo % 2 ^ len = w'.toNat / 2 ^ lo % 2 ^ len := by
  simpa [Nat.shiftRight_eq_div_pow] using congrArg BitVec.toNat h

/-- A bit of a word as a field of length 1. -/
theorem field_eq_of_bit_eq {w w' : Word} {k : Nat} (h : w.getLsbD k = w'.getLsbD k) :
    w.extractLsb' k 1 = w'.extractLsb' k 1 := by
  apply BitVec.eq_of_getLsbD_eq
  intro i hi
  obtain rfl : i = 0 := by omega
  simpa using h

/-- Format H: the opcode, the reserved bits and the handle are the whole word (R72). -/
theorem word_eq_of_formatH {w w' : Word} (hop : w.extractLsb' 28 4 = w'.extractLsb' 28 4)
    (hres : w.extractLsb' 16 12 = w'.extractLsb' 16 12) (hh : fieldHandle w = fieldHandle w') : w = w' := by
  have op := toNat_of_field_eq hop
  have res := toNat_of_field_eq hres
  have handle := toNat_of_field_eq hh
  apply BitVec.eq_of_toNat_eq
  omega

/-- Format W: the opcode, the reserved bits, the byte and the handle are the whole word (R73). -/
theorem word_eq_of_formatW {w w' : Word} (hop : w.extractLsb' 28 4 = w'.extractLsb' 28 4)
    (hres : w.extractLsb' 24 4 = w'.extractLsb' 24 4) (hb : fieldByte w = fieldByte w')
    (hh : fieldHandle w = fieldHandle w') : w = w' := by
  have op := toNat_of_field_eq hop
  have res := toNat_of_field_eq hres
  have byte := toNat_of_field_eq hb
  have handle := toNat_of_field_eq hh
  apply BitVec.eq_of_toNat_eq
  omega

/-- Format I: the opcode, the two flags, the reserved bits, the address and the two lines are the whole word (R71). -/
theorem word_eq_of_formatI {w w' : Word} (hop : w.extractLsb' 28 4 = w'.extractLsb' 28 4)
    (hack : fieldAck w = fieldAck w') (hslot : fieldSlotOk w = fieldSlotOk w')
    (hres : w.extractLsb' 24 2 = w'.extractLsb' 24 2) (ha : fieldPeerAddress w = fieldPeerAddress w')
    (hclk : fieldClockLine w = fieldClockLine w') (hdat : fieldDataLine w = fieldDataLine w') : w = w' := by
  have op := toNat_of_field_eq hop
  have ack := toNat_of_field_eq (field_eq_of_bit_eq hack)
  have slot := toNat_of_field_eq (field_eq_of_bit_eq hslot)
  have res := toNat_of_field_eq hres
  have address := toNat_of_field_eq ha
  have clock := toNat_of_field_eq hclk
  have data := toNat_of_field_eq hdat
  apply BitVec.eq_of_toNat_eq
  omega

/-- A row and its operands determine the word. -/
theorem word_eq_of_selectsRowOf {w w' : Word} {i : Instr} (h : SelectsRowOf w i) (h' : SelectsRowOf w' i) : w = w' := by
  cases i with
  | init ack slotOk a clk dat =>
    obtain ⟨row, hack, hslot, ha, hclk, hdat⟩ := h
    obtain ⟨row', hack', hslot', ha', hclk', hdat'⟩ := h'
    obtain ⟨hop, hres⟩ := (rowInit_selected_iff w).mp row
    obtain ⟨hop', hres'⟩ := (rowInit_selected_iff w').mp row'
    exact word_eq_of_formatI (hop.trans hop'.symm) (hack.trans hack'.symm) (hslot.trans hslot'.symm)
      (hres.trans hres'.symm) (ha.trans ha'.symm) (hclk.trans hclk'.symm) (hdat.trans hdat'.symm)
  | write b hd =>
    obtain ⟨row, hb, hh⟩ := h
    obtain ⟨row', hb', hh'⟩ := h'
    obtain ⟨hop, hres⟩ := (rowWrite_selected_iff w).mp row
    obtain ⟨hop', hres'⟩ := (rowWrite_selected_iff w').mp row'
    exact word_eq_of_formatW (hop.trans hop'.symm) (hres.trans hres'.symm) (hb.trans hb'.symm) (hh.trans hh'.symm)
  | start hd =>
    obtain ⟨⟨hop, hres⟩, hh⟩ := h.imp_left (rowStart_selected_iff w).mp
    obtain ⟨⟨hop', hres'⟩, hh'⟩ := h'.imp_left (rowStart_selected_iff w').mp
    exact word_eq_of_formatH (hop.trans hop'.symm) (hres.trans hres'.symm) (hh.trans hh'.symm)
  | stop hd =>
    obtain ⟨⟨hop, hres⟩, hh⟩ := h.imp_left (rowStop_selected_iff w).mp
    obtain ⟨⟨hop', hres'⟩, hh'⟩ := h'.imp_left (rowStop_selected_iff w').mp
    exact word_eq_of_formatH (hop.trans hop'.symm) (hres.trans hres'.symm) (hh.trans hh'.symm)
  | free hd =>
    obtain ⟨⟨hop, hres⟩, hh⟩ := h.imp_left (rowFree_selected_iff w).mp
    obtain ⟨⟨hop', hres'⟩, hh'⟩ := h'.imp_left (rowFree_selected_iff w').mp
    exact word_eq_of_formatH (hop.trans hop'.symm) (hres.trans hres'.symm) (hh.trans hh'.symm)

/-- Settles O3: the word and the encoder's word for what it decodes to select one row with the same operands. -/
theorem encodeOfDecodeIsTheWord : Obligations.EncodeOfDecodeIsTheWord := fun w i h =>
  word_eq_of_selectsRowOf (selectsRowOf_encode i) ((decode_ok_iff w i).mp h)

/-! ## The legal words (R76) -/

/-- A legal word selects the row of its opcode. -/
theorem exists_selectsRowOf_of_wellFormed {w : Word} (h : wordWellFormed w = true) : ∃ i, SelectsRowOf w i := by
  simp only [wordWellFormed, legalOp, reservedBitsZero, Bool.and_eq_true, decide_eq_true_eq] at h
  obtain ⟨⟨hlow, hhigh⟩, hres⟩ := h
  have op : ∀ n < 16, (w.extractLsb' 28 4).toNat = n → w.extractLsb' 28 4 = BitVec.ofNat 4 n := fun n hn hop =>
    BitVec.eq_of_toNat_eq (by rw [hop, BitVec.toNat_ofNat, Nat.mod_eq_of_lt hn])
  generalize hop : (w.extractLsb' 28 4).toNat = n at hlow hhigh hres
  interval_cases n
  · exact ⟨.init .., (rowInit_selected_iff w).mpr ⟨op 1 (by decide) hop, by simpa using hres⟩, rfl, rfl, rfl, rfl, rfl⟩
  · exact ⟨.start _, (rowStart_selected_iff w).mpr ⟨op 2 (by decide) hop, by simpa using hres⟩, rfl⟩
  · exact ⟨.write .., (rowWrite_selected_iff w).mpr ⟨op 3 (by decide) hop, by simpa using hres⟩, rfl, rfl⟩
  · exact ⟨.stop _, (rowStop_selected_iff w).mpr ⟨op 4 (by decide) hop, by simpa using hres⟩, rfl⟩
  · exact ⟨.free _, (rowFree_selected_iff w).mpr ⟨op 5 (by decide) hop, by simpa using hres⟩, rfl⟩

/-- The encoder's words are legal, by constructor. -/
theorem wordWellFormed_encode (i : Instr) : wordWellFormed (encode i) = true := by
  cases i with
  | init ack slotOk a clk dat => exact Laws.LegalWord.init ack slotOk a clk dat
  | start h => exact Laws.LegalWord.start h
  | write b h => exact Laws.LegalWord.write b h
  | stop h => exact Laws.LegalWord.stop h
  | free h => exact Laws.LegalWord.free h

/-- Settles O4: a word that decodes is the encoder's own word, and a legal word selects a row. -/
theorem decoderAcceptsExactlyTheLegalWords : Obligations.DecoderAcceptsExactlyTheLegalWords := fun w => by
  constructor
  · rintro ⟨i, h⟩
    exact encodeOfDecodeIsTheWord w i h ▸ wordWellFormed_encode i
  · intro h
    obtain ⟨i, hi⟩ := exists_selectsRowOf_of_wellFormed h
    exact ⟨i, (decode_ok_iff w i).mpr hi⟩

/-- Settles O1: the words are closed, so the decoder is evaluated on each. -/
theorem wordsDecodeAsTheFormatsSay : Obligations.WordsDecodeAsTheFormatsSay := by
  unfold Obligations.WordsDecodeAsTheFormatsSay
  decide

end Sys2Proof
end

section
/-! PROOFS. What a micro-step of the foreground leaves alone (R42, R192): one rule per shared operation, and then one
per kind of micro-step. -/

namespace Sys2Proof.Machine

/-! ## Changes that every micro-step but `I6`, `I7` and `F2` keeps to -/

/-- A context without its protocol state: what the foreground never writes in a context that stays (R42). -/
def ignoringState (c : Context) : Context := { c with state := .ready }

/-- What every foreground micro-step leaves alone or only adds to: the configuration, the script of moves, a pending bit
that is 0, and the trace, which grows by foreground events (R42, R192). -/
structure ForegroundChange (s t : State) : Prop where
  cfg     : t.cfg = s.cfg
  moves   : t.env.moves = s.env.moves
  pending : t.irqPending = true → s.irqPending = true
  trace   : ∃ es : List Event, t.trace = s.trace ++ es ∧ es.all foregroundEvent = true

/-- A foreground change that also leaves the interrupt alone, and of the slot all but the protocol state, and does not
go on to `I7`, where `armed` is yet to be written. -/
structure ForegroundKeeps (s t : State) : Prop extends ForegroundChange s t where
  armed      : t.armed = s.armed
  irqPending : t.irqPending = s.irqPending
  slot       : t.ctx.map ignoringState = s.ctx.map ignoringState
  notArming  : s.upc ≠ .i7 → t.upc ≠ .i7

section
variable {s t : State}

theorem ForegroundKeeps.refl (s : State) : ForegroundKeeps s s :=
  ⟨⟨rfl, rfl, id, [], by simp, rfl⟩, rfl, rfl, rfl, id⟩

/-- An operation that leaves the named registers alone. -/
theorem ForegroundKeeps.of_eq {u : State} (h : ForegroundKeeps s t) (cfg : u.cfg = t.cfg)
    (moves : u.env.moves = t.env.moves) (armed : u.armed = t.armed) (irqPending : u.irqPending = t.irqPending)
    (slot : u.ctx.map ignoringState = t.ctx.map ignoringState) (upc : t.upc ≠ .i7 → u.upc ≠ .i7)
    (trace : ∃ es : List Event, u.trace = t.trace ++ es ∧ es.all foregroundEvent = true) : ForegroundKeeps s u := by
  obtain ⟨es, htr, hes⟩ := h.trace
  obtain ⟨es', htr', hes'⟩ := trace
  exact ⟨⟨cfg.trans h.cfg, moves.trans h.moves, fun hp => h.pending (irqPending ▸ hp), es ++ es',
    by rw [htr', htr, List.append_assoc], by simp [hes, hes']⟩, armed.trans h.armed, irqPending.trans h.irqPending,
    slot.trans h.slot, upc ∘ h.notArming⟩

/-- A jump, with writes of the transmitter's registers only. -/
theorem ForegroundKeeps.jump {u : State} {l : Label} (h : ForegroundKeeps s t) (hl : l ≠ .i7)
    (upc : u.upc = l := by rfl) (cfg : u.cfg = t.cfg := by rfl)
    (moves : u.env.moves = t.env.moves := by rfl) (armed : u.armed = t.armed := by rfl)
    (irqPending : u.irqPending = t.irqPending := by rfl) (slot : u.ctx = t.ctx := by rfl)
    (trace : u.trace = t.trace := by rfl) : ForegroundKeeps s u :=
  h.of_eq cfg moves armed irqPending (congrArg _ slot) (fun _ => upc ▸ hl) ⟨[], by simp [trace], rfl⟩

theorem ForegroundKeeps.goto (h : ForegroundKeeps s t) {l : Label} (hl : l ≠ .i7) : ForegroundKeeps s (goto l t) :=
  h.jump hl

theorem ForegroundKeeps.respond (h : ForegroundKeeps s t) (st : Status) (hd : Handle) :
    ForegroundKeeps s (respond st hd t) :=
  h.of_eq rfl rfl rfl rfl rfl (fun _ => show Label.idle ≠ .i7 by decide) ⟨[.resp st hd], rfl, rfl⟩

theorem ForegroundKeeps.lineWrite (h : ForegroundKeeps s t) (id : LineId) (v : Level) :
    ForegroundKeeps s (lineWrite id v t) :=
  h.of_eq rfl rfl rfl rfl rfl (fun h => h) ⟨[.lineWrite id v], rfl, rfl⟩

theorem ForegroundKeeps.delay (h : ForegroundKeeps s t) (i : Interval) : ForegroundKeeps s (delay i t) :=
  h.of_eq rfl rfl rfl rfl rfl id ⟨[.delay i], rfl, rfl⟩

/-- The script of moves is not the script of answers. -/
theorem nextCfgAnswer_moves (e : Env) : (nextCfgAnswer e).2.moves = e.moves := by
  unfold nextCfgAnswer
  split <;> rfl

theorem nextArmAnswer_moves (e : Env) : (nextArmAnswer e).2.moves = e.moves := by
  unfold nextArmAnswer
  split <;> rfl

theorem nextTagDraw_moves (e : Env) : (nextTagDraw e).2.moves = e.moves := by
  unfold nextTagDraw
  split <;> rfl

theorem ForegroundKeeps.lineCfg (h : ForegroundKeeps s t) (clk dat : LineId) :
    ForegroundKeeps s (lineCfg clk dat t).2 :=
  h.of_eq rfl (nextCfgAnswer_moves t.env) rfl rfl rfl id ⟨[.cfg clk dat _], rfl, rfl⟩

theorem ForegroundKeeps.armIrq (h : ForegroundKeeps s t) (dat : LineId) : ForegroundKeeps s (armIrq dat t).2 :=
  h.of_eq rfl (nextArmAnswer_moves t.env) rfl rfl rfl id ⟨[.arm dat _], rfl, rfl⟩

/-- A context written with another protocol state and nothing else. -/
theorem ForegroundKeeps.setCtx {c c' : Context} (h : ForegroundKeeps s t) (hc : t.ctx = some c)
    (heq : ignoringState c' = ignoringState c) : ForegroundKeeps s (setCtx c' t) :=
  h.of_eq rfl rfl rfl rfl (by simp [hc, heq]) id ⟨[], by simp, rfl⟩

/-- A micro-step that reads the context. -/
theorem ForegroundKeeps.withCtx {f : Context → State} (hf : ∀ c, s.ctx = some c → ForegroundKeeps s (f c)) :
    ForegroundKeeps s (withCtx s f) := by
  unfold Machine.withCtx
  split
  · next c hc => exact hf c hc
  · exact .refl s

/-- `Transition` writes the protocol state only (R121 to R124). -/
theorem ignoringState_transition (q : ProtoState) (c : Context) :
    ignoringState (transition q c).2 = ignoringState c := by
  unfold transition
  split
  · rfl
  · split <;> rfl

theorem foregroundKeeps_handleCheck {l : Label} (hl : l ≠ .i7) (s : State) : ForegroundKeeps s (handleCheck l s) := by
  unfold handleCheck
  split
  · exact (ForegroundKeeps.refl s).goto hl
  · exact (ForegroundKeeps.refl s).respond _ _

theorem foregroundKeeps_entryTransition (q : ProtoState) {l : Label} (hl : l ≠ .i7) (s : State) :
    ForegroundKeeps s (entryTransition q l s) := by
  refine .withCtx fun c hc => ?_
  dsimp only
  split
  · exact ((ForegroundKeeps.refl s).setCtx hc (ignoringState_transition q c)).goto hl
  · exact (ForegroundKeeps.refl s).respond _ _

theorem returnLabel_ne_i7 (r : ReturnLabel) : returnLabel r ≠ .i7 := by cases r <;> decide

/-- Every micro-step but the construction `I6`, the arming `I7` and the release `F2`. -/
theorem foregroundKeeps_fgStep (hu : s.upc ∉ [Label.i6, .i7, .f2]) : ForegroundKeeps s (fgStep s) := by
  have same := ForegroundKeeps.refl s
  unfold fgStep
  cases hl : s.upc with
  | i6 | i7 | f2 => simp [hl] at hu
  | idle => exact same
  | i0 | i1 =>
    simp only [microI0, microI1]
    split
    · exact same.goto (by decide)
    · exact same.respond _ _
  | i2 =>
    simp only [microI2]
    split
    · exact same.respond _ _
    · split
      · exact same.respond _ _
      · exact same.goto (by decide)
  | i3 =>
    simp only [microI3]
    split
    · exact same.respond _ _
    · split
      · exact (same.lineCfg _ _).goto (by decide)
      · exact (same.lineCfg _ _).respond _ _
  | f0 =>
    simp only [microF0]
    split
    · exact same.respond _ _
    · exact same.goto (by decide)
  | f1 | s0 | w0 | p0 => exact foregroundKeeps_handleCheck (by decide) s
  | s1 | w1 | p1 => exact foregroundKeeps_entryTransition _ (by decide) s
  | i4 | i5 => exact (same.lineWrite _ _).goto (by decide)
  | s2 | s4 | p2 | p4 | b0 | b1 | a1 | a2 | a3 | a4 => exact .withCtx fun c _ => (same.lineWrite _ _).goto (by decide)
  | s3 | p3 | p5 | a5 => exact (same.delay _).goto (by decide)
  | s5 => exact .withCtx fun c _ => same.jump (l := .b0) (by decide)
  | w2 => exact same.jump (l := .b0) (by decide)
  | i8 => exact .withCtx fun c _ => same.respond _ _
  | s6 | w4 | p6 | x0 => exact same.respond _ _
  | w3 => exact .withCtx fun c hc => (same.setCtx hc (ignoringState_transition .stop c)).goto (by decide)
  | b2 =>
    refine .withCtx fun c _ => ?_
    dsimp only
    split
    · exact (same.lineWrite _ _).goto (by decide)
    · exact (same.lineWrite c.clockLine false).jump (l := .b0) (by decide)
  | a0 =>
    refine .withCtx fun c hc => ?_
    dsimp only
    split
    · exact (same.setCtx hc (ignoringState_transition .ackWait c)).goto (by decide)
    · exact same.jump (returnLabel_ne_i7 _)
  | a6 => exact .withCtx fun c _ => same.jump (l := .a7) (by decide)
  | a7 =>
    refine .withCtx fun c hc => ?_
    split
    · exact same.jump (returnLabel_ne_i7 _)
    · have forced : ForegroundKeeps s (Machine.setCtx { c with state := .write } s) := same.setCtx hc rfl
      exact forced.jump (returnLabel_ne_i7 _)

/-! ## The construction, the arming and the release -/

theorem fgStep_i6 (hu : s.upc = .i6) :
    fgStep s = goto .i7 (setCtx (freshContext (drawTag s).1 s) (drawTag s).2) := by
  simp [fgStep, hu, microI6]

theorem fgStep_i7_none (hu : s.upc = .i7) (hc : s.ctx = none) : fgStep s = s := by
  simp [fgStep, hu, microI7, withCtx, hc]

theorem fgStep_f2 (hu : s.upc = .f2) : fgStep s = respond .ok 0#16 (releaseCtx (disarm s)) := by
  simp [fgStep, hu, microF2]

/-- `I7` with a context: it goes on to `I8`, armed if that was asked for and granted, or it releases the context
(R106). -/
theorem fgStep_i7_cases {c : Context} (hu : s.upc = .i7) (hc : s.ctx = some c) :
    (c.ackEnabled = false ∧ fgStep s = goto .i8 s) ∨
    (c.ackEnabled = true ∧ (armIrq c.dataLine s).1 = .ok ∧ fgStep s = goto .i8 (setArmed (armIrq c.dataLine s).2)) ∨
    (c.ackEnabled = true ∧ (armIrq c.dataLine s).1 = .fail ∧
      fgStep s = respond .irqArm 0#16 (releaseCtx (armIrq c.dataLine s).2)) := by
  cases he : c.ackEnabled with
  | false => exact .inl ⟨rfl, by simp [fgStep, hu, microI7, withCtx, hc, he]⟩
  | true =>
    cases ha : (armIrq c.dataLine s).1 with
    | ok => exact .inr (.inl ⟨rfl, rfl, by simp [fgStep, hu, microI7, withCtx, hc, he, ha]⟩)
    | fail => exact .inr (.inr ⟨rfl, rfl, by simp [fgStep, hu, microI7, withCtx, hc, he, ha]⟩)

theorem ForegroundChange.respond (h : ForegroundChange s t) (st : Status) (hd : Handle) :
    ForegroundChange s (respond st hd t) := by
  obtain ⟨es, htr, hes⟩ := h.trace
  exact ⟨h.cfg, h.moves, h.pending, es ++ [.resp st hd], by simp [htr], by simp [hes, foregroundEvent]⟩

theorem ForegroundChange.releaseCtx (h : ForegroundChange s t) : ForegroundChange s (releaseCtx t) :=
  ⟨h.cfg, h.moves, h.pending, h.trace⟩

/-- Disarming drops a pending edge and records itself where the interrupt was armed (R113). -/
theorem foregroundChange_disarm (s : State) : ForegroundChange s (disarm s) := by
  refine ⟨rfl, rfl, fun h => by simp [disarm] at h, if s.armed then [.disarm] else [], ?_, ?_⟩ <;>
    cases h : s.armed <;> simp [disarm, h, foregroundEvent]

/-- Every micro-step of the foreground (R42, R192). -/
theorem foregroundChange_fgStep (s : State) : ForegroundChange s (fgStep s) := by
  by_cases hu : s.upc ∈ [Label.i6, .i7, .f2]
  · have same := ForegroundKeeps.refl s
    simp only [List.mem_cons, List.not_mem_nil, or_false] at hu
    obtain hl | hl | hl := hu
    · rw [fgStep_i6 hl]
      exact ⟨rfl, nextTagDraw_moves s.env, id, [], by simp [drawTag], rfl⟩
    · cases hc : s.ctx with
      | none => exact (fgStep_i7_none hl hc).symm ▸ same.toForegroundChange
      | some c =>
        have asked := (same.armIrq c.dataLine).toForegroundChange
        obtain ⟨-, heq⟩ | ⟨-, -, heq⟩ | ⟨-, -, heq⟩ := fgStep_i7_cases hl hc <;> rw [heq]
        · exact (same.goto (by decide)).toForegroundChange
        · exact ⟨asked.cfg, asked.moves, asked.pending, asked.trace⟩
        · exact asked.releaseCtx.respond _ _
    · rw [fgStep_f2 hl]
      exact (foregroundChange_disarm s).releaseCtx.respond _ _
  · exact (foregroundKeeps_fgStep hu).toForegroundChange

/-- Settles O48: each micro-step is a foreground change, by kind of micro-step. -/
theorem foregroundRaisesNoEdge : Obligations.ForegroundRaisesNoEdge := fun s =>
  have change := foregroundChange_fgStep s
  ⟨change.pending, change.trace⟩

/-! ## The slot -/

theorem withCtx_ctx {f : Context → State} (hf : ∀ c, s.ctx = some c → (f c).ctx = s.ctx) :
    (withCtx s f).ctx = s.ctx := by
  unfold withCtx
  split
  · next c hc => exact hf c hc
  · rfl

theorem handleCheck_ctx (l : Label) (s : State) : (handleCheck l s).ctx = s.ctx := by
  unfold handleCheck
  split <;> rfl

/-- The labels at which the foreground writes the protocol state, constructs the context or releases it (R42). -/
def slotLabels : List Label := [.i6, .i7, .f2, .s1, .w1, .w3, .p1, .a0, .a7]

/-- Elsewhere it leaves the whole slot alone. -/
theorem fgStep_ctx (hu : s.upc ∉ slotLabels) : (fgStep s).ctx = s.ctx := by
  unfold fgStep
  cases hl : s.upc with
  | i6 | i7 | f2 | s1 | w1 | w3 | p1 | a0 | a7 => simp [hl, slotLabels] at hu
  | i0 | i1 | f0 => simp only [microI0, microI1, microF0]; split <;> rfl
  | i2 =>
    simp only [microI2]
    split
    · rfl
    · split <;> rfl
  | i3 =>
    simp only [microI3]
    split
    · rfl
    · split <;> rfl
  | f1 | s0 | w0 | p0 => exact handleCheck_ctx _ s
  | b2 => exact withCtx_ctx fun c _ => by dsimp only; split <;> rfl
  | i8 | s2 | s4 | s5 | p2 | p4 | b0 | b1 | a1 | a2 | a3 | a4 | a6 => exact withCtx_ctx fun c _ => rfl
  | idle | i4 | i5 | x0 | s3 | s6 | w2 | w4 | p3 | p5 | p6 | a5 => rfl

/-- A context that is live after `I7` or `F2` is the one from before. -/
theorem ctx_eq_of_i7_or_f2 {c c' : Context} (hu : s.upc = .i7 ∨ s.upc = .f2) (hc : s.ctx = some c)
    (hc' : (fgStep s).ctx = some c') : c' = c := by
  obtain hl | hl := hu
  · obtain ⟨-, heq⟩ | ⟨-, -, heq⟩ | ⟨-, -, heq⟩ := fgStep_i7_cases hl hc <;> rw [heq] at hc'
    · exact Option.some.inj (hc'.symm.trans hc)
    · exact Option.some.inj (hc'.symm.trans hc)
    · cases hc'
  · rw [fgStep_f2 hl] at hc'
    cases hc'

/-- A context that stays over a micro-step other than the construction keeps all but its protocol state (R42). -/
theorem ignoringState_eq_of_fgStep {c c' : Context} (hu : s.upc ≠ .i6) (hc : s.ctx = some c)
    (hc' : (fgStep s).ctx = some c') : ignoringState c' = ignoringState c := by
  by_cases hl : s.upc = .i7 ∨ s.upc = .f2
  · rw [ctx_eq_of_i7_or_f2 hl hc hc']
  · have slot := (foregroundKeeps_fgStep (s := s) (by simp [hu, not_or.mp hl])).slot
    simpa [hc, hc'] using slot

/-- `I7` leaves a pending edge alone, whatever `ArmIrq` answers. -/
theorem irqPending_fgStep_i7 (hl : s.upc = .i7) : (fgStep s).irqPending = s.irqPending := by
  cases hc : s.ctx with
  | none => rw [fgStep_i7_none hl hc]
  | some c => obtain ⟨-, heq⟩ | ⟨-, -, heq⟩ | ⟨-, -, heq⟩ := fgStep_i7_cases hl hc <;> rw [heq] <;> rfl

/-- The foreground clears the pending bit at `F2` only (R42). -/
theorem irqPending_fgStep (hu : s.upc ≠ .f2) : (fgStep s).irqPending = s.irqPending := by
  by_cases h6 : s.upc = .i6
  · rw [fgStep_i6 h6]; rfl
  · by_cases h7 : s.upc = .i7
    · exact irqPending_fgStep_i7 h7
    · exact (foregroundKeeps_fgStep (by simp [h6, h7, hu])).irqPending

/-- The foreground writes `armed` at `I7` and `F2` only (R42). -/
theorem armed_fgStep (h7 : s.upc ≠ .i7) (hf : s.upc ≠ .f2) : (fgStep s).armed = s.armed := by
  by_cases h6 : s.upc = .i6
  · rw [fgStep_i6 h6]; rfl
  · exact (foregroundKeeps_fgStep (by simp [h6, h7, hf])).armed

/-- Settles O49: outside `I6`, `I7` and `F2` a micro-step keeps the slot but for the protocol state, and outside the
labels of R42 all of it. -/
theorem foregroundWritesOnlyWhatItOwns : Obligations.ForegroundWritesOnlyWhatItOwns := by
  intro s
  refine ⟨armed_fgStep, irqPending_fgStep, fun h6 h7 hf => ?_, (foregroundChange_fgStep s).cfg,
    fun c c' hu hc hc' => ?_, fun c c' h6 hc hc' => ?_⟩
  · have slot := congrArg Option.isSome (foregroundKeeps_fgStep (s := s) (by simp [h6, h7, hf])).slot
    simpa [ctxValid] using slot
  · by_cases hl : s.upc = .i7 ∨ s.upc = .f2
    · rw [ctx_eq_of_i7_or_f2 hl hc hc']
    · have kept : (fgStep s).ctx = s.ctx := fgStep_ctx (by simp_all [slotLabels])
      rw [Option.some.inj (hc'.symm.trans (kept.trans hc))]
  · have same := ignoringState_eq_of_fgStep h6 hc hc'
    simp only [ignoringState, Context.mk.injEq, true_and] at same
    obtain ⟨haddr, hclk, hdat, hack, hcount, htag⟩ := same
    exact ⟨hcount, haddr, hclk, hdat, hack, htag⟩

end

end Sys2Proof.Machine
end

section
/-! PROOFS. Every command ends (R180, R227): a bound on the micro-steps left that each micro-step lowers, and the one
way in which the machine stops (log entry 9). -/

namespace Sys2Proof.Machine

/-! ## The micro-steps left -/

/-- The micro-steps of a command from the label that SendByte returns to. -/
def returnStepsLeft (r : ReturnLabel) : Nat :=
  match r with
  | .s6 => 1
  | .w3 => 2

/-- The most micro-steps that a command still takes from its micro-step label (R227). -/
def stepsLeft (s : State) : Nat :=
  match s.upc with
  | .idle => 0
  | .i0 => 9 | .i1 => 8 | .i2 => 7 | .i3 => 6 | .i4 => 5 | .i5 => 4 | .i6 => 3 | .i7 => 2 | .i8 => 1
  | .f0 => 3 | .f1 => 2 | .f2 => 1
  | .s0 => 39 | .s1 => 38 | .s2 => 37 | .s3 => 36 | .s4 => 35 | .s5 => 34 | .s6 => 1
  | .w0 => 37 | .w1 => 36 | .w2 => 35 | .w3 => 2 | .w4 => 1
  | .p0 => 7 | .p1 => 6 | .p2 => 5 | .p3 => 4 | .p4 => 3 | .p5 => 2 | .p6 => 1
  | .x0 => 1
  | .b0 => returnStepsLeft s.ret + (3 * s.bitidx.val + 11)
  | .b1 => returnStepsLeft s.ret + (3 * s.bitidx.val + 10)
  | .b2 => returnStepsLeft s.ret + (3 * s.bitidx.val + 9)
  | .a0 => returnStepsLeft s.ret + 8
  | .a1 => returnStepsLeft s.ret + 7
  | .a2 => returnStepsLeft s.ret + 6
  | .a3 => returnStepsLeft s.ret + 5
  | .a4 => returnStepsLeft s.ret + 4
  | .a5 => returnStepsLeft s.ret + 3
  | .a6 => returnStepsLeft s.ret + 2
  | .a7 => returnStepsLeft s.ret + 1

theorem returnStepsLeft_le (r : ReturnLabel) : returnStepsLeft r ≤ 2 := by cases r <;> decide

/-- No command takes more than the 39 micro-steps of `START` (R227). -/
theorem stepsLeft_le (s : State) : stepsLeft s ≤ maxMicroSteps := by
  have hr := returnStepsLeft_le s.ret
  have hb := s.bitidx.isLt
  unfold stepsLeft maxMicroSteps
  split <;> omega

theorem idle_of_stepsLeft {s : State} (h : stepsLeft s = 0) : s.upc = .idle := by
  unfold stepsLeft at h
  split at h
  · assumption
  all_goals omega

/-- The run has come nearer to its end, and the context it needs is there. -/
structure Advances (s t : State) : Prop where
  fewer : stepsLeft t < stepsLeft s
  kept  : lostContext t = false

section
variable {s t : State}

/-- A response ends the command. -/
theorem advances_respond (hu : s.upc ≠ .idle) (st : Status) (h : Handle) (t : State) : Advances s (respond st h t) := by
  refine ⟨?_, lostContext_idle _ rfl⟩
  show 0 < stepsLeft s
  exact Nat.pos_of_ne_zero fun h0 => hu (idle_of_stepsLeft h0)

/-- A jump to a label with fewer micro-steps left, with a context in the slot or no need of one. -/
theorem advances_goto {l : Label} (hleft : stepsLeft (goto l t) < stepsLeft s)
    (hkept : needsContext l = true → ctxValid t = true) : Advances s (goto l t) := by
  refine ⟨hleft, ?_⟩
  cases hn : needsContext l with
  | false => simp [lostContext, hn]
  | true => simpa [lostContext, hn, ctxValid] using hkept hn

theorem ctxValid_of_handleOk {h : Handle} (hh : handleOk h s = true) : ctxValid s = true := by
  unfold handleOk at hh
  unfold ctxValid
  split at hh
  · next hc => simp [hc]
  · cases hh

/-- A handle check passes only with a context in the slot (R111). -/
theorem advances_handleCheck {l : Label} (hu : s.upc ≠ .idle) (hleft : stepsLeft (goto l s) < stepsLeft s) :
    Advances s (handleCheck l s) := by
  unfold handleCheck
  split
  · next hh => exact advances_goto hleft fun _ => ctxValid_of_handleOk hh
  · exact advances_respond hu _ _ s

theorem ctxValid_of_lostContext (hl : lostContext s = false) (hn : needsContext s.upc = true) :
    ∃ c, s.ctx = some c := by
  rw [← Option.isSome_iff_exists]
  simpa [lostContext, hn, ctxValid] using hl

/-- A micro-step that needs the context finds it. -/
theorem advances_withCtx {f : Context → State} (hlost : lostContext s = false) (hn : needsContext s.upc = true)
    (hf : ∀ c, s.ctx = some c → Advances s (f c)) : Advances s (withCtx s f) := by
  obtain ⟨c, hc⟩ := ctxValid_of_lostContext hlost hn
  simpa [withCtx, hc] using hf c hc

theorem advances_entryTransition {l : Label} {q : ProtoState} (hlost : lostContext s = false)
    (hn : needsContext s.upc = true) (hu : s.upc ≠ .idle) (hleft : ∀ c, stepsLeft (goto l (setCtx c s)) < stepsLeft s) :
    Advances s (entryTransition q l s) := by
  refine advances_withCtx hlost hn fun c _ => ?_
  dsimp only
  split
  · exact advances_goto (hleft _) fun _ => rfl
  · exact advances_respond hu _ _ s

/-- SendByte's return, from any of its labels. -/
theorem advances_return (hleft : returnStepsLeft s.ret < stepsLeft s) (ht : ctxValid t = true) :
    Advances s (goto (returnLabel s.ret) t) := by
  refine advances_goto ?_ fun _ => ht
  cases hr : s.ret <;> simpa [stepsLeft, returnLabel, hr, returnStepsLeft] using hleft

/-- Every micro-step advances the command. -/
theorem advances_fgStep (hlost : lostContext s = false) (hu : s.upc ≠ .idle) : Advances s (fgStep s) := by
  unfold fgStep
  cases hl : s.upc with
  | idle => exact absurd hl hu
  | i0 | i1 =>
    simp only [microI0, microI1]
    split
    · exact advances_goto (by simp [stepsLeft, hl]) (by simp [needsContext])
    · exact advances_respond hu _ _ s
  | i2 =>
    simp only [microI2]
    split
    · exact advances_respond hu _ _ s
    · split
      · exact advances_respond hu _ _ s
      · exact advances_goto (by simp [stepsLeft, hl]) (by simp [needsContext])
  | i3 =>
    simp only [microI3]
    split
    · exact advances_respond hu _ _ s
    · split
      · exact advances_goto (by simp [stepsLeft, hl]) (by simp [needsContext])
      · exact advances_respond hu _ _ _
  | f0 =>
    simp only [microF0]
    split
    · exact advances_respond hu _ _ s
    · exact advances_goto (by simp [stepsLeft, hl]) (by simp [needsContext])
  | f1 | s0 | w0 | p0 => exact advances_handleCheck hu (by simp [stepsLeft, hl])
  | f2 | x0 | s6 | w4 | p6 => exact advances_respond hu _ _ _
  | i4 | i5 | p5 => exact advances_goto (by simp [stepsLeft, hl]) (by simp [needsContext])
  | s3 | p3 | a5 =>
    obtain ⟨c, hc⟩ := ctxValid_of_lostContext hlost (by simp [hl, needsContext])
    exact advances_goto (by simp [stepsLeft, hl]) (by simp [ctxValid, hc])
  | i6 => exact advances_goto (by simp [stepsLeft, hl]) fun _ => rfl
  | i7 =>
    refine advances_withCtx hlost (by simp [hl, needsContext]) fun c hc => ?_
    dsimp only
    split
    · split
      · exact advances_goto (by simp [stepsLeft, hl]) (by simp [ctxValid, armIrq, hc])
      · exact advances_respond hu _ _ _
    · exact advances_goto (by simp [stepsLeft, hl]) (by simp [ctxValid, hc])
  | i8 => exact advances_withCtx hlost (by simp [hl, needsContext]) fun c hc => advances_respond hu _ _ s
  | s1 | w1 | p1 =>
    exact advances_entryTransition hlost (by simp [hl, needsContext]) hu (by simp [stepsLeft, hl])
  | s2 | s4 | p2 | p4 | b0 | b1 | a1 | a2 | a3 | a4 | a6 =>
    exact advances_withCtx hlost (by simp [hl, needsContext]) fun c hc =>
      advances_goto (by simp [stepsLeft, hl, sampleAck]) (by simp [ctxValid, hc, sampleAck])
  | s5 =>
    refine advances_withCtx hlost (by simp [hl, needsContext]) fun c hc => ⟨?_, ?_⟩
    · simp [stepsLeft, hl, returnStepsLeft]
    · simp [lostContext, ctxValid, hc]
  | w2 =>
    obtain ⟨c, hc⟩ := ctxValid_of_lostContext hlost (by simp [hl, needsContext])
    refine ⟨?_, ?_⟩
    · simp [microW2, stepsLeft, hl, returnStepsLeft]
    · simp [microW2, lostContext, ctxValid, hc]
  | w3 =>
    exact advances_withCtx hlost (by simp [hl, needsContext]) fun c hc =>
      advances_goto (by simp [stepsLeft, hl]) fun _ => rfl
  | b2 =>
    refine advances_withCtx hlost (by simp [hl, needsContext]) fun c hc => ?_
    dsimp only
    split
    · exact advances_goto (by simp [stepsLeft, hl]) (by simp [ctxValid, hc])
    · next hb =>
      have hpred := Fin.val_sub_one_of_ne_zero hb
      have hpos : s.bitidx.val ≠ 0 := fun h => hb (Fin.ext h)
      exact advances_goto (by simp [stepsLeft, hl]; omega) (by simp [ctxValid, hc])
  | a0 =>
    refine advances_withCtx hlost (by simp [hl, needsContext]) fun c hc => ?_
    dsimp only
    split
    · exact advances_goto (by simp [stepsLeft, hl]) fun _ => rfl
    · exact advances_return (by simp [stepsLeft, hl]) (by simp [ctxValid, hc])
  | a7 =>
    refine advances_withCtx hlost (by simp [hl, needsContext]) fun c hc => ?_
    split
    · exact advances_return (by simp [stepsLeft, hl]) (by simp [ctxValid, hc])
    · exact advances_return (by simp [stepsLeft, hl]) rfl

/-! ## The other agents, and a run -/

/-- The other agents neither fill nor empty the slot (R42). -/
theorem ctxValid_of_environmentChange (h : EnvironmentChange s t) : ctxValid t = ctxValid s := by
  obtain ⟨hs, ht⟩ | ⟨c, c', hs, ht, -⟩ := h.ctx <;> simp [ctxValid, hs, ht]

theorem lostContext_of_environmentChange (h : EnvironmentChange s t) : lostContext t = lostContext s := by
  simp [lostContext, h.upc, ctxValid_of_environmentChange h]

theorem stepsLeft_of_environmentChange (h : EnvironmentChange s t) : stepsLeft t = stepsLeft s := by
  simp [stepsLeft, h.upc, h.ret, h.bitidx]

/-- Every tick of a command advances it, whatever the other agents do before it. -/
theorem advances_tick (hlost : lostContext s = false) (hu : s.upc ≠ .idle) : Advances s (tick s) := by
  have change := environmentChange_boundary s
  obtain ⟨fewer, kept⟩ := advances_fgStep (s := boundary s) (lostContext_of_environmentChange change ▸ hlost)
    (change.upc ▸ hu)
  rw [tick_busy s hu]
  exact ⟨stepsLeft_of_environmentChange change ▸ fewer, kept⟩

/-- A run of as many ticks as are left ends at `Idle`. -/
theorem idle_of_ticks {n : Nat} (hlost : lostContext s = false) (hn : stepsLeft s ≤ n) : (ticks n s).upc = .idle := by
  induction n generalizing s with
  | zero => exact idle_of_stepsLeft (Nat.le_zero.mp hn)
  | succ n ih =>
    by_cases hu : s.upc = .idle
    · rw [ticks_idle _ s hu, hu]
    · have step := advances_tick hlost hu
      exact ih step.kept (Nat.le_of_lt_succ (step.fewer.trans_le hn))

/-- A command that has not lost its context comes to its response (R183). -/
theorem finish_upc (hlost : lostContext s = false) : (finish s).upc = .idle :=
  idle_of_ticks hlost (stepsLeft_le s)

/-- The labels at which a command is accepted (R74, R76). -/
def firstLabels : List Label := [.i0, .s0, .w0, .p0, .f0, .x0]

theorem firstLabel_mem (i : Instr) : firstLabel i ∈ firstLabels := by cases i <;> simp [firstLabel, firstLabels]

theorem needsContext_of_first : ∀ l ∈ firstLabels, needsContext l = false := by decide

/-- A command word accepted at the start of a micro-program comes to its response. -/
theorem finish_accept_upc {l : Label} (hl : l ∈ firstLabels) (w : Word) (s : State) :
    (finish (accept w l s)).upc = .idle :=
  finish_upc (by simp [lostContext, needsContext_of_first l hl])

end

/-- Settles O17: the bound of each command is the number of micro-steps left at its first label. -/
theorem everyCommandRespondsWithinItsBound : Obligations.EveryCommandRespondsWithinItsBound := by
  refine ⟨fun i s _ => ?_, fun w s _ => ?_⟩
  · refine idle_of_ticks (by simp [lostContext, needsContext_of_first _ (firstLabel_mem i)]) (Nat.le_of_eq ?_)
    cases i <;> rfl
  · exact idle_of_ticks rfl (Nat.le_of_eq rfl)

/-- Settles O16: after the command in progress has responded there is nothing left to wait for. -/
theorem busyCommandWaits : Obligations.BusyCommandWaits := by
  intro i s hlost
  have idle := finish_upc hlost
  refine ⟨idle, ?_⟩
  rw [exec_eq_runCommand, exec_eq_runCommand, runCommand_idle _ _ _ idle, runCommand, if_neg (by simp [hlost])]

/-! ## What a step does -/

/-- A step outside the states that have lost their context: the command in progress responds, and then a command word
runs to its response, or the other agents act at `Idle` (R60, R70). -/
theorem step_cases (s : State) :
    (∃ w, ∃ l ∈ firstLabels, step s = runCommand w l (dropTurn s)) ∨
    step s = idleTurn (dropTurn s) := by
  unfold step
  split
  · next w _ ht =>
    split
    · next i _ => exact .inl ⟨_, _, firstLabel_mem i, exec_eq_runCommand i _⟩
    · exact .inl ⟨w, .x0, by decide, rfl⟩
  · exact .inr rfl
  · next ht => exact .inr (by rw [dropTurn, ht]; simp only [List.tail_nil]; rw [← ht])

/-- A step outside the states that have lost their context answers the end of a command, run from a state that has the
host's turn taken off and the command in progress finished, or that state after a boundary. -/
theorem step_next_cases {s : State} (hlost : lostContext s = false) :
    (∃ w, ∃ l ∈ firstLabels, step s = .next (finish (accept w l (finish (dropTurn s))))) ∨
    step s = .next (boundary (finish (dropTurn s))) := by
  have hlost' : lostContext (dropTurn s) = false := hlost
  obtain ⟨w, l, hl, hs⟩ | hs := step_cases s
  · exact .inl ⟨w, l, hl, by simp [hs, runCommand, hlost']⟩
  · exact .inr (by simp [hs, idleTurn, hlost'])

/-- No tick writes the configuration. -/
theorem tick_cfg (s : State) : (tick s).cfg = s.cfg := by
  by_cases hu : s.upc = .idle
  · rw [tick_idle s hu]
  · rw [tick_busy s hu, (foregroundChange_fgStep _).cfg, (environmentChange_boundary s).cfg]

theorem ticks_cfg (n : Nat) (s : State) : (ticks n s).cfg = s.cfg := by
  induction n generalizing s with
  | zero => rfl
  | succ n ih => rw [ticks_succ, ih, tick_cfg]

theorem finish_cfg (s : State) : (finish s).cfg = s.cfg := ticks_cfg _ s

/-- Settles O10: the command in progress and the one presented both come to their responses, and a boundary leaves the
sequencer at `Idle`. -/
theorem everyStepEndsIdle : Obligations.EveryStepEndsIdle := by
  intro s hlost
  have idle : (finish (dropTurn s)).upc = .idle := finish_upc hlost
  have same : (finish (dropTurn s)).cfg = s.cfg := finish_cfg _
  obtain ⟨w, l, hl, hs⟩ | hs := step_next_cases hlost
  · exact ⟨_, hs, finish_accept_upc hl w _, by rw [finish_cfg, accept_cfg, same]⟩
  · have change := environmentChange_boundary (finish (dropTurn s))
    exact ⟨_, hs, change.upc.trans idle, change.cfg.trans same⟩

/-! ## The one fault -/

theorem labelInv_of_inv {s : State} (hi : inv s = true) : labelInv s = true := by
  simp only [inv, Bool.and_eq_true] at hi
  exact hi.2

/-- Wherever a micro-program reads the context, the invariant says that there is one. -/
theorem lostContext_of_inv {s : State} (hi : inv s = true) : lostContext s = false := by
  have here := labelInv_of_inv hi
  cases hc : s.ctx with
  | some c => simp [lostContext, ctxValid, hc]
  | none =>
    unfold lostContext
    cases hl : s.upc with
    | i7 | i8 | s1 | s2 | s3 | s4 | s5 | w1 | w2 | w3 | p1 | p2 | p3 | p4 | b0 | b1 | b2 | a0 | a1 | a2 | a3 | a4
      | a5 | a6 | a7 => simp [labelInv, hl, ctxIs, hc] at here
    | idle | i0 | i1 | i2 | i3 | i4 | i5 | i6 | f0 | f1 | f2 | s0 | s6 | w0 | w4 | p0 | p5 | p6 | x0 => rfl

/-- Settles O11: `runCommand` and an idle turn fault exactly there, and a step is one of the two. -/
theorem emptySlotFaultsOnlyWhereNoRunGoes : Obligations.EmptySlotFaultsOnlyWhereNoRunGoes := by
  have run : ∀ w l s, runCommand w l s = .fault .emptySlot ↔ lostContext s = true := fun w l s => by
    cases h : lostContext s <;> simp [runCommand, h]
  have idle : ∀ s, idleTurn s = .fault .emptySlot ↔ lostContext s = true := fun s => by
    cases h : lostContext s <;> simp [idleTurn, h]
  refine ⟨fun s => ?_, fun i s => exec_eq_runCommand i s ▸ run _ _ s, fun s => lostContext_of_inv⟩
  obtain ⟨w, l, -, hs⟩ | hs := step_cases s <;> rw [hs]
  · exact run w l (dropTurn s)
  · exact idle (dropTurn s)

/-- Settles O12: the step decodes the word at the head of the host's turns and drops that turn. -/
theorem stepRunsTheDecodedCommand : Obligations.StepRunsTheDecodedCommand := by
  intro s w rest i ht hw _
  have dropped : dropTurn s = { s with env := { s.env with turns := rest } } := by simp [dropTurn, ht]
  simp [step, ht, hw, dropped]

end Sys2Proof.Machine
end

section
/-! PROOFS. The address contract (R102) on the shifted address and on the operand (R82). -/

namespace Sys2Proof.Machine

/-- The shifted address loses no bit (R82). -/
theorem toNat_shiftedAddress (a : Byte) : (shiftedAddress a).toNat = 2 * a.toNat := by
  have ha := a.isLt
  simp only [shiftedAddress, BitVec.toNat_shiftLeft, BitVec.toNat_setWidth, Nat.shiftLeft_eq]
  omega

theorem reservedAddress_iff (S : BitVec 9) :
    reservedAddress S = true ↔ S.toNat ≤ 0x0F ∨ (0xF0 ≤ S.toNat ∧ S.toNat ≤ 0xF7) ∨
      S.toNat = 0xF9 ∨ S.toNat = 0xFB ∨ S.toNat = 0xFD ∨ S.toNat = 0xFF := by
  simp [reservedAddress, BitVec.le_def, ← BitVec.toNat_inj, or_assoc]

theorem addressTooLarge_iff (S : BitVec 9) :
    addressTooLarge S = true ↔ reservedAddress S = false ∧ 0x7F < S.toNat := by
  simp [addressTooLarge, BitVec.lt_def]

theorem addressAccepted_iff (S : BitVec 9) :
    addressAccepted S = true ↔ reservedAddress S = false ∧ S.toNat ≤ 0x7F := by
  simp [addressAccepted, BitVec.le_def]

/-- The accepted operands (R102). -/
theorem addressAccepted_shiftedAddress_iff (a : Byte) :
    addressAccepted (shiftedAddress a) = true ↔ 0x08 ≤ a.toNat ∧ a.toNat ≤ 0x3F := by
  rw [addressAccepted_iff, ← Bool.not_eq_true, reservedAddress_iff, toNat_shiftedAddress]
  omega

/-- Settles O19: the shifted address is twice the operand, and the contract is arithmetic on it. -/
theorem addressContract : Obligations.AddressContract := by
  refine ⟨fun S => ⟨reservedAddress_iff S, addressTooLarge_iff S, addressAccepted_iff S⟩,
    fun a => ⟨toNat_shiftedAddress a, addressAccepted_shiftedAddress_iff a, fun h => ?_⟩⟩
  rw [reservedAddress_iff, toNat_shiftedAddress]
  omega

/-- The stored address of an accepted operand is the operand shifted left (R21, R82). -/
theorem toNat_storedAddress {a : Byte} (h : addressAccepted (shiftedAddress a) = true) :
    (storedAddress a).toNat = 2 * a.toNat := by
  have ha := (addressAccepted_shiftedAddress_iff a).mp h
  rw [storedAddress, BitVec.toNat_setWidth, toNat_shiftedAddress]
  omega

/-- Its bit 0 is 0 (R21). -/
theorem getLsbD_zero_storedAddress (a : Byte) : (storedAddress a).getLsbD 0 = false := by
  simp [storedAddress, shiftedAddress]

/-- `I2` goes on with an accepted address only: neither reserved nor too large (R102). -/
theorem addressAccepted_of_checks {S : BitVec 9} (hr : reservedAddress S = false) (ht : addressTooLarge S = false) :
    addressAccepted S = true := by
  rw [addressAccepted_iff]
  rw [← Bool.not_eq_true, addressTooLarge_iff] at ht
  exact ⟨hr, Nat.not_lt.mp fun h => ht ⟨hr, h⟩⟩

end Sys2Proof.Machine
end

section
/-! PROOFS. The invariant: what the other agents and each micro-step of the foreground make of it, and so every step
(R43, R44). -/

namespace Sys2Proof.Machine

/-! ## The parts of the invariant -/

/-- A live context is well formed. -/
def slotWf (s : State) : Prop := ∀ c, s.ctx = some c → contextWf s.cfg c = true

theorem inv_iff (s : State) :
    inv s = true ↔ slotWf s ∧ armedInv s = true ∧ pendingInv s = true ∧ labelInv s = true := by
  cases hc : s.ctx <;> simp [inv, slotWf, hc, and_assoc]

theorem atRest_iff (c : Context) (s : State) :
    atRest c s = true ↔ (c.state = .ready ∧ s.sdaDrv = some true ∧ s.sclDrv = some true) ∨
      ((c.state = .write ∨ c.state = .stop) ∧ s.sdaDrv = some false ∧ s.sclDrv = some false) := by
  cases h : c.state <;> simp [atRest, shadows, h]

/-- Settles O7: the reset state is closed, so the invariant is evaluated on it. -/
theorem invariantHoldsAtReset : Obligations.InvariantHoldsAtReset := by
  unfold Obligations.InvariantHoldsAtReset
  decide

/-- Settles O6: each field is the one that `State.reset` gives (R220). -/
theorem resetLeavesTheSlotEmptyAndTheSequencerIdle : Obligations.ResetLeavesTheSlotEmptyAndTheSequencerIdle :=
  ⟨rfl, rfl, rfl, rfl, rfl, rfl, rfl, rfl, rfl, rfl⟩

/-! ## The other agents keep it -/

section
variable {s t : State}

/-- The label's part of the invariant reads the slot and registers that the other agents leave alone. -/
theorem labelInv_congr (h : EnvironmentChange s t) (hc : t.ctx = s.ctx) : labelInv t = labelInv s := by
  obtain ⟨cfg, -, -, sda, scl, upc, -, bitidx, ret, acked, -, cmd, -, -, -, -, -, -, -⟩ := h
  cases s; cases t
  simp only at cfg sda scl upc bitidx ret acked cmd hc
  subst_vars
  rfl

theorem entryState_ne_ackWait (r : ReturnLabel) : entryState r ≠ .ackWait := by cases r <;> decide

/-- The handler's one edge is taken in the acknowledge phase only, and each of its labels allows `Write` (R151). -/
theorem labelInv_of_environmentChange (h : EnvironmentChange s t) (hi : labelInv s = true) : labelInv t = true := by
  obtain ⟨hs, ht⟩ | ⟨c, c', hs, ht, rfl | ⟨hq, rfl⟩⟩ := h.ctx
  · rwa [labelInv_congr h (ht.trans hs.symm)]
  · rwa [labelInv_congr h (ht.trans hs.symm)]
  · unfold labelInv at hi ⊢
    rw [h.upc]
    cases hl : s.upc with
    | a1 | a2 | a3 | a4 | a5 | a6 =>
      simp only [hl, ctxIs, hs, ht, inAckPhase, hq, h.sclDrv, h.bitidx, h.shadows] at hi ⊢
      simpa using hi
    | a7 =>
      simp only [hl, ctxIs, hs, ht, hq, h.bitidx, h.shadows, Bool.and_eq_true] at hi ⊢
      obtain ⟨⟨-, low⟩, last⟩ := hi
      exact ⟨⟨rfl, low⟩, last⟩
    | b0 | b1 | b2 | a0 =>
      simp [hl, ctxIs, hs, hq, (entryState_ne_ackWait s.ret).symm] at hi
    | i4 | i5 | i6 => simp [hl, ctxValid, hs] at hi
    | idle | i0 | i1 | i2 | i3 | i7 | i8 | f0 | f1 | f2 | s0 | s1 | s2 | s3 | s4 | s5 | s6 | w0 | w1 | w2 | w3 | w4
      | p0 | p1 | p2 | p3 | p4 | p5 | p6 | x0 =>
      simp [hl, restOrEmpty, ctxIs, hs, atRest, hq] at hi

/-- The other agents leave the identity of the context alone, and `armed` with it. -/
theorem slotWf_of_environmentChange (h : EnvironmentChange s t) (hi : slotWf s) : slotWf t := by
  intro c₁ hc₁
  rw [h.cfg]
  obtain ⟨-, ht⟩ | ⟨c, c', hs, ht, hm⟩ := h.ctx
  · cases hc₁.symm.trans ht
  · obtain rfl : c₁ = c' := Option.some.inj (hc₁.symm.trans ht)
    obtain rfl | ⟨-, rfl⟩ := hm
    · exact hi _ hs
    · exact hi c hs

theorem armedInv_of_environmentChange (h : EnvironmentChange s t) (hi : armedInv s = true) : armedInv t = true := by
  unfold armedInv at hi ⊢
  rw [h.upc, h.armed]
  obtain ⟨hs, ht⟩ | ⟨c, c', hs, ht, rfl | ⟨-, rfl⟩⟩ := h.ctx <;> rw [ht] <;> rw [hs] at hi <;> exact hi

/-! ## The pending bit -/

/-- The handler clears the pending condition (R151). -/
theorem ackIrq_irqPending (s : State) : (ackIrq s).irqPending = false := by
  cases hc : s.ctx with
  | none => simp [ackIrq, withCtx, hc]
  | some c =>
    by_cases hs : c.state = .ackWait
    · rw [ackIrq_taken s c hc hs]
    · rw [ackIrq_ignored s c hc hs]

/-- An edge pends only while armed, and the handler only clears (R191). -/
theorem pending_imp_armed_serveIfEnabled (h : s.irqPending = true → s.armed = true) :
    (serveIfEnabled s).irqPending = true → (serveIfEnabled s).armed = true := by
  unfold serveIfEnabled
  split
  · simp [ackIrq_irqPending]
  · exact h

theorem pending_imp_armed_applyMoves (ms : List Move) (h : s.irqPending = true → s.armed = true) :
    (applyMoves ms s).irqPending = true → (applyMoves ms s).armed = true := by
  induction ms generalizing s with
  | nil => exact h
  | cons m ms ih =>
    cases m with
    | edge => exact ih (s := raiseEdge s) fun hp => ((Bool.or_eq_true _ _).mp hp).elim h id
    | serve => exact ih (pending_imp_armed_serveIfEnabled h)

/-- Prompt service leaves no enabled handler behind (R193). -/
theorem handlerEnabled_servicePending (h : s.cfg.irqService = .prompt) : handlerEnabled (servicePending s) = false := by
  rw [servicePending, h]
  simp only [serveIfEnabled]
  split
  · simp [handlerEnabled, ackIrq_irqPending]
  · next hoff => simpa using hoff

/-- Settles O46: the boundary ends with the service discipline, which under prompt service runs an enabled handler. -/
theorem promptServiceComesBeforeTheForeground : Obligations.PromptServiceComesBeforeTheForeground := fun _ h =>
  handlerEnabled_servicePending ((irqService_applyMoves _ _).trans h)

/-- A boundary keeps the pending bit to an armed interrupt, and under prompt service clears it: an armed interrupt has a
context, so its handler is enabled. -/
theorem pendingInv_boundary (harmed : armedInv s = true) (hi : pendingInv s = true) :
    pendingInv (boundary s) = true := by
  have change := environmentChange_boundary s
  have pends : (boundary s).irqPending = true → (boundary s).armed = true := by
    have before : s.irqPending = true → s.armed = true := by
      simp only [pendingInv, Bool.or_eq_true, Bool.not_eq_true', Bool.and_eq_true] at hi
      intro hp
      exact (hi.resolve_left (by simp [hp])).1
    have moved := pending_imp_armed_applyMoves (s.env.moves.headD [])
      (s := { s with env := { s.env with moves := s.env.moves.tail } }) before
    unfold boundary servicePending
    split
    · exact pending_imp_armed_serveIfEnabled moved
    · exact moved
  cases hp : (boundary s).irqPending with
  | false => simp [pendingInv, hp]
  | true =>
    have armed := pends hp
    have live : ctxValid (boundary s) = true := by
      have here := armedInv_of_environmentChange change harmed
      cases hc : (boundary s).ctx with
      | none => simp [armedInv, hc, armed] at here
      | some c => simp [ctxValid, hc]
    cases hd : s.cfg.irqService with
    | lazy => simp [pendingInv, armed, change.cfg, hd]
    | prompt =>
      have off := promptServiceComesBeforeTheForeground s hd
      simp [handlerEnabled, live, armed, hp] at off

/-- A boundary keeps the invariant. -/
theorem inv_boundary (hi : inv s = true) : inv (boundary s) = true := by
  have change := environmentChange_boundary s
  obtain ⟨wf, armed, pending, label⟩ := (inv_iff s).mp hi
  exact (inv_iff _).mpr ⟨slotWf_of_environmentChange change wf, armedInv_of_environmentChange change armed,
    pendingInv_boundary armed pending, labelInv_of_environmentChange change label⟩

/-! ## The foreground: the part of the label -/

/-- A response leaves a context at rest, or none. -/
theorem labelInv_respond (st : Status) (h : Handle) (hi : restOrEmpty s = true) : labelInv (respond st h s) = true := hi

/-- A micro-step that reads the context has what the label says of it. -/
theorem labelInv_withCtx {p : Context → Bool} {f : Context → State} (h : ctxIs p s = true)
    (hf : ∀ c, s.ctx = some c → p c = true → labelInv (f c) = true) : labelInv (withCtx s f) = true := by
  cases hc : s.ctx with
  | none => simp [ctxIs, hc] at h
  | some c => simpa [withCtx, hc] using hf c hc (by simpa [ctxIs, hc] using h)

/-- A handle check goes on with a context at rest, or answers (R175). -/
theorem labelInv_handleCheck {l : Label} (h : restOrEmpty s = true)
    (hl : ∀ c, s.ctx = some c → handleOk (cmdHandle s) s = true → atRest c s = true → labelInv (goto l s) = true) :
    labelInv (handleCheck l s) = true := by
  unfold handleCheck
  split
  · next hh =>
    cases hc : s.ctx with
    | none => simp [handleOk, hc] at hh
    | some c => exact hl c hc hh (by simpa [restOrEmpty, hc] using h)
  · exact h

/-- An entry transition is granted from a context at rest, or answers and leaves it there (R163, R167, R172). -/
theorem labelInv_entryTransition {q : ProtoState} {l : Label} (h : ctxIs (fun c => atRest c s) s = true)
    (hl : ∀ c, s.ctx = some c → atRest c s = true → (q = c.state ∨ (c.state, q) ∈ legalEdges) →
      labelInv (goto l (setCtx { c with state := q } s)) = true) :
    labelInv (entryTransition q l s) = true := by
  refine labelInv_withCtx h fun c hc hr => ?_
  by_cases hq : q = c.state
  · subst hq
    simpa [transition_self] using hl c hc hr (.inl rfl)
  · by_cases hq' : (c.state, q) ∈ legalEdges
    · simpa [transition_legal hq'] using hl c hc hr (.inr hq')
    · have refused : labelInv (respond .invalidTransition (cmdHandle s) s) = true :=
        labelInv_respond _ _ (by simpa [restOrEmpty, hc] using hr)
      simpa [transition_illegal hq hq'] using refused

theorem labelInv_microI2 (rest : restOrEmpty s = true) (lines : cmdLinesValid s = true) :
    labelInv (microI2 s) = true := by
  unfold microI2
  split
  · exact rest
  · split
    · exact rest
    · next hr ht =>
      have accepted := addressAccepted_of_checks (Bool.eq_false_iff.mpr hr) (Bool.eq_false_iff.mpr ht)
      show (restOrEmpty s && cmdLinesValid s && cmdAddressAccepted s) = true
      simp [rest, lines, cmdAddressAccepted, accepted]

theorem labelInv_microI3 (rest : restOrEmpty s = true) (lines : cmdLinesValid s = true)
    (accepted : cmdAddressAccepted s = true) : labelInv (microI3 s) = true := by
  unfold microI3
  split
  · exact rest
  · next hv =>
    dsimp only
    split
    · show (!ctxValid s && cmdLinesValid s && cmdAddressAccepted s) = true
      simp [hv, lines, accepted]
    · exact rest

/-- With an empty slot the line writes of `I4` and `I5` drive the command's own lines (R52, R104). -/
theorem labelInv_microI4 (empty : (!ctxValid s) = true) (lines : cmdLinesValid s = true)
    (accepted : cmdAddressAccepted s = true) : labelInv (microI4 s) = true := by
  have hc : s.ctx = none := by simpa [ctxValid] using empty
  show (!ctxValid s && cmdLinesValid s && cmdAddressAccepted s &&
    (lineWrite (cmdDataLine s) true s).sdaDrv == some true) = true
  simp [empty, lines, accepted, busDataLine, hc]

theorem labelInv_microI5 (empty : (!ctxValid s) = true) (lines : cmdLinesValid s = true)
    (accepted : cmdAddressAccepted s = true) (data : s.sdaDrv = some true) : labelInv (microI5 s) = true := by
  have hc : s.ctx = none := by simpa [ctxValid] using empty
  show (!ctxValid s && cmdLinesValid s && cmdAddressAccepted s &&
    shadows (lineWrite (cmdClockLine s) true s) == (some true, some true)) = true
  simp [empty, lines, accepted, data, shadows, busClockLine, hc]

theorem labelInv_microI7 (here : ctxIs (fun c => c.state == .ready && atRest c s) s = true) :
    labelInv (microI7 s) = true := by
  refine labelInv_withCtx here fun c _ _ => ?_
  dsimp only
  split
  · split
    · exact here
    · rfl
  · exact here

/-- `S1` is granted in `Ready` only, so it finds both lines high. -/
theorem labelInv_microS1 (here : ctxIs (fun c => atRest c s) s = true) : labelInv (microS1 s) = true := by
  refine labelInv_entryTransition here fun c _ hr hq => ?_
  show shadows s == (some true, some true)
  obtain ⟨-, data, clock⟩ | ⟨low, -⟩ := (atRest_iff c s).mp hr
  · simp [shadows, data, clock]
  · exact absurd hq (by obtain h | h := low <;> rw [h] <;> decide)

/-- `W1` is refused in `Ready`, so it finds the clock line low. -/
theorem labelInv_microW1 (here : ctxIs (fun c => atRest c s) s = true) : labelInv (microW1 s) = true := by
  refine labelInv_entryTransition here fun c _ hr hq => ?_
  show s.sclDrv == some false
  obtain ⟨ready, -⟩ | ⟨-, -, clock⟩ := (atRest_iff c s).mp hr
  · exact absurd hq (by rw [ready]; decide)
  · simp [clock]

theorem labelInv_microW3 (here : ctxIs (fun c => c.state == .write && atRest c s) s = true) :
    labelInv (microW3 s) = true := by
  refine labelInv_withCtx here fun c _ hp => ?_
  obtain ⟨write, rest⟩ : c.state = .write ∧ atRest c s = true := by simpa using hp
  rw [transition_legal (q := .stop) (write ▸ by decide)]
  show (shadows s == (some false, some false)) = true
  simpa [atRest, write] using rest

/-- `P4` raises the data line, and the clock line stays high even where the two are one line. -/
theorem labelInv_microP4 (ready : ctxIs (fun c => c.state == .ready) s = true) (clock : s.sclDrv = some true) :
    labelInv (microP4 s) = true := by
  refine labelInv_withCtx ready fun c hc hp => ?_
  show ctxIs (fun c' => c'.state == .ready && atRest c' (lineWrite c.dataLine true s)) s = true
  simp_all [ctxIs, busDataLine, atRest, shadows]

theorem labelInv_microB2 (here : ctxIs (fun c => c.state == entryState s.ret) s = true) :
    labelInv (microB2 s) = true := by
  refine labelInv_withCtx here fun c hc _ => ?_
  dsimp only
  split
  · next hb =>
    show (ctxIs (fun c => c.state == entryState s.ret) s && (lineWrite c.clockLine false s).sclDrv == some false &&
      s.bitidx == 0) = true
    simp [here, busClockLine, hc, hb]
  · show (ctxIs (fun c => c.state == entryState s.ret) s &&
      (lineWrite c.clockLine false s).sclDrv == some false) = true
    simp [here, busClockLine, hc]

/-- From both entry states of SendByte the acknowledge phase opens (R134). -/
theorem labelInv_microA0 (entered : ctxIs (fun c => c.state == entryState s.ret) s = true)
    (clock : (s.sclDrv == some false) = true) (last : (s.bitidx == 0) = true) : labelInv (microA0 s) = true := by
  refine labelInv_withCtx entered fun c _ hp => ?_
  have entry : c.state = entryState s.ret := by simpa using hp
  have legal : (c.state, .ackWait) ∈ legalEdges := by
    rw [entry]
    cases s.ret <;> decide
  rw [transition_legal legal]
  exact Bool.and_eq_true_iff.mpr ⟨Bool.and_eq_true_iff.mpr ⟨rfl, clock⟩, last⟩

theorem labelInv_microA3 (waiting : ctxIs inAckPhase s = true) (last : (s.bitidx == 0) = true) :
    labelInv (microA3 s) = true := by
  refine labelInv_withCtx waiting fun c hc _ => ?_
  show (ctxIs inAckPhase s && (lineWrite c.clockLine false s).sclDrv == some false && s.bitidx == 0) = true
  simp [waiting, last, busClockLine, hc]

/-- `A4` lowers the data line, and the clock line stays low even where the two are one line. -/
theorem labelInv_microA4 (waiting : ctxIs inAckPhase s = true) (clock : s.sclDrv = some false)
    (last : (s.bitidx == 0) = true) : labelInv (microA4 s) = true := by
  refine labelInv_withCtx waiting fun c hc _ => ?_
  show (ctxIs inAckPhase s && shadows (lineWrite c.dataLine false s) == (some false, some false) &&
    s.bitidx == 0) = true
  simp [waiting, last, shadows, busDataLine, hc, clock]

/-- After the sample of `A6`, the state is `AckWait` only with a negative copy (R136). -/
theorem labelInv_microA6 (waiting : ctxIs inAckPhase s = true) (low : (shadows s == (some false, some false)) = true)
    (last : (s.bitidx == 0) = true) : labelInv (microA6 s) = true := by
  refine labelInv_withCtx waiting fun c hc hp => ?_
  have sampled : c.state = .ackWait ∨ c.state = .write := by simpa [inAckPhase] using hp
  show (ctxIs (fun c' => c'.state == .write || (c'.state == .ackWait && !(c.state != .ackWait))) s &&
    shadows s == (some false, some false) && s.bitidx == 0) = true
  obtain h | h := sampled <;> simp [ctxIs, hc, h, low, last]

/-- SendByte returns with both lines low, so a context in `Write` is at rest there (R137). -/
theorem labelInv_return {c : Context} (hw : c.state = .write) (low : shadows s = (some false, some false))
    (hc : s.ctx = some c) (st : Status) : labelInv (goto (returnLabel s.ret) (setResult st s)) = true := by
  have rest : atRest c s = true := by simp [atRest, hw, low]
  cases s.ret
  · show restOrEmpty s = true
    simpa [restOrEmpty, hc] using rest
  · show ctxIs (fun c => c.state == .write && atRest c s) s = true
    simpa [ctxIs, hc, hw] using rest

theorem labelInv_microA7
    (sampled : ctxIs (fun c => c.state == .write || (c.state == .ackWait && !s.acked)) s = true)
    (low : shadows s = (some false, some false)) : labelInv (microA7 s) = true := by
  refine labelInv_withCtx sampled fun c hc hp => ?_
  split
  · next ha => exact labelInv_return (by simpa [ha] using hp) low hc .ok
  · exact labelInv_return (s := setCtx { c with state := .write } s) rfl low rfl .nack

/-- Every micro-step of the foreground establishes what its next label asks for. -/
theorem labelInv_fgStep (hi : labelInv s = true) : labelInv (fgStep s) = true := by
  have here := hi
  unfold labelInv at here
  unfold fgStep
  cases hl : s.upc <;> simp only [hl, Bool.and_eq_true] at here
  case idle => exact hi
  case s6 | w4 | p6 | x0 => exact here
  case i0 | f0 =>
    simp only [microI0, microF0]
    split <;> exact here
  case i1 =>
    simp only [microI1]
    split
    · next hv => exact Bool.and_eq_true_iff.mpr ⟨here, hv⟩
    · exact here
  case i2 =>
    obtain ⟨rest, lines⟩ := here
    exact labelInv_microI2 rest lines
  case i3 =>
    obtain ⟨⟨rest, lines⟩, accepted⟩ := here
    exact labelInv_microI3 rest lines accepted
  case i4 =>
    obtain ⟨⟨empty, lines⟩, accepted⟩ := here
    exact labelInv_microI4 empty lines accepted
  case i5 =>
    obtain ⟨⟨⟨empty, lines⟩, accepted⟩, data⟩ := here
    exact labelInv_microI5 empty lines accepted (beq_iff_eq.mp data)
  case i6 =>
    obtain ⟨-, high⟩ := here
    exact high
  case i7 => exact labelInv_microI7 here
  case i8 => exact labelInv_withCtx here fun c hc hp => labelInv_respond _ _ (by simp_all [restOrEmpty])
  case f1 => exact labelInv_handleCheck here fun c hc hh hr => Bool.and_eq_true_iff.mpr ⟨hh, here⟩
  case f2 => rfl
  case s0 | w0 | p0 =>
    refine labelInv_handleCheck here fun c hc hh hr => ?_
    show ctxIs (fun c => atRest c s) s = true
    simpa [ctxIs, hc] using hr
  case s1 => exact labelInv_microS1 here
  case w1 => exact labelInv_microW1 here
  case p1 => exact labelInv_entryTransition here fun c hc hr hq => rfl
  case s2 =>
    refine labelInv_withCtx here fun c hc hp => ?_
    show (ctxIs (fun c => c.state == .start) s && (lineWrite c.dataLine false s).sdaDrv == some false) = true
    simp_all [ctxIs, busDataLine]
  case s3 | w2 | p3 => exact Bool.and_eq_true_iff.mpr here
  case s4 =>
    obtain ⟨started, -⟩ := here
    refine labelInv_withCtx started fun c hc _ => ?_
    show (ctxIs (fun c => c.state == .start) s && (lineWrite c.clockLine false s).sclDrv == some false) = true
    simp [started, busClockLine, hc]
  case s5 =>
    obtain ⟨started, clock⟩ := here
    exact labelInv_withCtx started fun _ _ _ => Bool.and_eq_true_iff.mpr ⟨started, clock⟩
  case w3 => exact labelInv_microW3 here
  case p2 =>
    refine labelInv_withCtx here fun c hc hp => ?_
    show (ctxIs (fun c => c.state == .ready) s && (lineWrite c.clockLine true s).sclDrv == some true) = true
    simp [here, busClockLine, hc]
  case p4 =>
    obtain ⟨ready, clock⟩ := here
    exact labelInv_microP4 ready (beq_iff_eq.mp clock)
  case p5 =>
    show restOrEmpty s = true
    cases hc : s.ctx <;> simp_all [restOrEmpty, ctxIs]
  case b0 =>
    obtain ⟨entered, -⟩ := here
    exact labelInv_withCtx entered fun _ _ _ => entered
  case b1 => exact labelInv_withCtx here fun _ _ _ => here
  case b2 => exact labelInv_microB2 here
  case a0 =>
    obtain ⟨⟨entered, clock⟩, last⟩ := here
    exact labelInv_microA0 entered clock last
  case a1 =>
    obtain ⟨⟨waiting, -⟩, last⟩ := here
    exact labelInv_withCtx waiting fun _ _ _ => Bool.and_eq_true_iff.mpr ⟨waiting, last⟩
  case a2 => exact labelInv_withCtx here.1 fun _ _ _ => Bool.and_eq_true_iff.mpr here
  case a3 =>
    obtain ⟨waiting, last⟩ := here
    exact labelInv_microA3 waiting last
  case a4 =>
    obtain ⟨⟨waiting, clock⟩, last⟩ := here
    exact labelInv_microA4 waiting (beq_iff_eq.mp clock) last
  case a5 =>
    obtain ⟨before, last⟩ := here
    exact Bool.and_eq_true_iff.mpr ⟨Bool.and_eq_true_iff.mpr before, last⟩
  case a6 =>
    obtain ⟨⟨waiting, low⟩, last⟩ := here
    exact labelInv_microA6 waiting low last
  case a7 =>
    obtain ⟨⟨sampled, low⟩, -⟩ := here
    exact labelInv_microA7 sampled (beq_iff_eq.mp low)

/-! ## The foreground: the context, `armed` and the pending bit -/

/-- Well-formedness does not read the protocol state. -/
theorem contextWf_ignoringState (cfg : Config) (c : Context) : contextWf cfg (ignoringState c) = contextWf cfg c := rfl

/-- A micro-step that keeps the slot but for the protocol state keeps the context well formed and `armed` with it. -/
theorem slotWf_of_keeps (h : ForegroundKeeps s t) (hi : slotWf s) : slotWf t := by
  intro c' hc'
  have slot := h.slot
  cases hc : s.ctx with
  | none => simp [hc, hc'] at slot
  | some c =>
    have same : ignoringState c' = ignoringState c := by simpa [hc, hc'] using slot
    rw [← contextWf_ignoringState, same, h.cfg]
    exact hi c hc

theorem armedInv_of_keeps (h : ForegroundKeeps s t) (hu : s.upc ≠ .i7) (hi : armedInv s = true) :
    armedInv t = true := by
  have slot := h.slot
  unfold armedInv at hi ⊢
  rw [h.armed]
  cases hc : s.ctx with
  | none =>
    have empty : t.ctx = none := by simpa [hc] using slot
    simpa [hc, empty] using hi
  | some c =>
    obtain ⟨c', hc', same⟩ : ∃ c', t.ctx = some c' ∧ ignoringState c' = ignoringState c := by simpa [hc] using slot
    have mode : c'.ackEnabled = c.ackEnabled := congrArg (·.ackEnabled) same
    simpa [hc, hc', hu, h.notArming hu, mode] using hi

theorem pendingInv_of_eq (cfg : t.cfg = s.cfg) (armed : t.armed = s.armed) (pending : t.irqPending = s.irqPending)
    (hi : pendingInv s = true) : pendingInv t = true := by
  unfold pendingInv at hi ⊢
  rwa [cfg, armed, pending]

/-- The context that `I6` constructs is well formed (R21, R22, R28, R105). -/
theorem contextWf_freshContext (lines : cmdLinesValid s = true) (accepted : cmdAddressAccepted s = true) (k : TagDraw) :
    contextWf s.cfg (freshContext (tagOfDraw k) s) = true := by
  simp only [cmdLinesValid, Bool.and_eq_true] at lines
  have address := toNat_storedAddress accepted
  have range := (addressAccepted_shiftedAddress_iff _).mp accepted
  have even := getLsbD_zero_storedAddress (cmdPeerAddress s)
  simp only [contextWf, freshContext, lines, even, Bool.and_eq_true, bne_iff_ne, Bool.not_false, and_true]
  exact ⟨⟨decide_eq_true (by omega), decide_eq_true (by omega)⟩, tagOfDraw_ne_zero k⟩

/-- `I6` constructs a well-formed context, and the interrupt stays disarmed. -/
theorem inv_fgStep_i6 (hu : s.upc = .i6) (hi : inv s = true) : inv (fgStep s) = true := by
  obtain ⟨-, armed, pending, label⟩ := (inv_iff s).mp hi
  have after := labelInv_fgStep label
  have here := label
  simp only [labelInv, hu, Bool.and_eq_true] at here
  obtain ⟨⟨⟨empty, lines⟩, accepted⟩, -⟩ := here
  have hc : s.ctx = none := by simpa [ctxValid] using empty
  rw [fgStep_i6 hu] at after ⊢
  refine (inv_iff _).mpr ⟨fun c hc' => ?_, ?_, pendingInv_of_eq (s := s) rfl rfl rfl pending, after⟩
  · obtain rfl := Option.some.inj hc'
    exact contextWf_freshContext lines accepted _
  · show (if Label.i7 = .i7 then !s.armed else s.armed == cmdAck s) = true
    simpa [armedInv, hc] using armed

/-- `I7` arms exactly where the context asks for it, or releases the context (R106). -/
theorem inv_fgStep_i7 (hu : s.upc = .i7) (hi : inv s = true) : inv (fgStep s) = true := by
  obtain ⟨wf, armed, pending, label⟩ := (inv_iff s).mp hi
  have after := labelInv_fgStep label
  obtain ⟨c, hc⟩ := ctxValid_of_lostContext (lostContext_of_inv hi) (by rw [hu]; rfl)
  have off : s.armed = false := by simpa [armedInv, hc, hu] using armed
  have clear : s.irqPending = false := by simpa [pendingInv, off] using pending
  have quiet : pendingInv (fgStep s) = true := by simp [pendingInv, irqPending_fgStep_i7 hu, clear]
  refine (inv_iff _).mpr ⟨fun c' hc' => ?_, ?_, quiet, after⟩
  · rw [ctx_eq_of_i7_or_f2 (.inl hu) hc hc', (foregroundChange_fgStep s).cfg]
    exact wf c hc
  · obtain ⟨hack, heq⟩ | ⟨hack, -, heq⟩ | ⟨-, -, heq⟩ := fgStep_i7_cases hu hc <;> rw [heq]
    · simp [armedInv, hc, off, hack]
    · simp [armedInv, armIrq, hc, hack]
    · simpa [armedInv, armIrq] using off

/-- `F2` leaves nothing behind (R113). -/
theorem inv_fgStep_f2 (hu : s.upc = .f2) : inv (fgStep s) = true := by
  rw [fgStep_f2 hu]
  exact (inv_iff _).mpr ⟨fun _ hc => (nomatch hc), rfl, rfl, rfl⟩

/-- Every micro-step of the foreground keeps the invariant. -/
theorem inv_fgStep (hi : inv s = true) : inv (fgStep s) = true := by
  by_cases hu : s.upc ∈ [Label.i6, .i7, .f2]
  · simp only [List.mem_cons, List.not_mem_nil, or_false] at hu
    obtain h6 | h7 | hf := hu
    · exact inv_fgStep_i6 h6 hi
    · exact inv_fgStep_i7 h7 hi
    · exact inv_fgStep_f2 hf
  · obtain ⟨wf, armed, pending, label⟩ := (inv_iff s).mp hi
    have keeps := foregroundKeeps_fgStep hu
    have h7 : s.upc ≠ .i7 := fun h => hu (by simp [h])
    exact (inv_iff _).mpr ⟨slotWf_of_keeps keeps wf, armedInv_of_keeps keeps h7 armed,
      pendingInv_of_eq keeps.cfg keeps.armed keeps.irqPending pending, labelInv_fgStep label⟩

/-! ## Runs, commands and steps -/

theorem inv_tick (hi : inv s = true) : inv (tick s) = true := by
  by_cases hu : s.upc = .idle
  · rwa [tick_idle s hu]
  · rw [tick_busy s hu]
    exact inv_fgStep (inv_boundary hi)

theorem inv_ticks (n : Nat) (hi : inv s = true) : inv (ticks n s) = true := by
  induction n generalizing s with
  | zero => exact hi
  | succ n ih => exact ih (inv_tick hi)

/-- What holds at `Idle` is what the first label of a micro-program asks for. -/
theorem inv_accept {w : Word} {l : Label} (hl : l ∈ firstLabels) (hu : s.upc = .idle)
    (hi : inv s = true) : inv (accept w l s) = true := by
  obtain ⟨wf, armed, pending, label⟩ := (inv_iff s).mp hi
  have rest : restOrEmpty s = true := by simpa [labelInv, hu] using label
  have first : labelInv (accept w l s) = restOrEmpty s := by
    simp only [firstLabels, List.mem_cons, List.not_mem_nil, or_false] at hl
    rcases hl with rfl | rfl | rfl | rfl | rfl | rfl <;> rfl
  have notArming : l ≠ .i7 := by rintro rfl; exact absurd hl (by decide)
  refine (inv_iff _).mpr ⟨wf, ?_, pending, first.trans rest⟩
  unfold armedInv at armed ⊢
  simpa [hu, notArming] using armed

/-- A command run from `Idle` ends with the invariant. -/
theorem inv_finish_accept {w : Word} {l : Label} (hl : l ∈ firstLabels) (hu : s.upc = .idle)
    (hi : inv s = true) : inv (finish (accept w l s)) = true :=
  inv_ticks _ (inv_accept hl hu hi)

/-- A command that answers a next state ends with the invariant. -/
theorem inv_exec {i : Instr} (hu : s.upc = .idle) (hi : inv s = true) (ht : exec i s = .next t) : inv t = true := by
  rw [exec_eq_runCommand, runCommand_idle _ _ _ hu] at ht
  cases ht
  exact inv_finish_accept (firstLabel_mem i) hu hi

/-- The invariant does not speak of the host's turns. -/
theorem inv_dropTurn (s : State) : inv (dropTurn s) = inv s := rfl

end

/-- Settles O8: a step finishes the command in progress and then runs a command or lets the other agents act, and each
tick and boundary on the way keeps the invariant. -/
theorem everyStepKeepsTheInvariant : Obligations.EveryStepKeepsTheInvariant := by
  intro s t hi ht
  have lost := lostContext_of_inv hi
  have finished : inv (finish (dropTurn s)) = true := inv_ticks _ (inv_dropTurn s ▸ hi)
  obtain ⟨w, l, hl, hs⟩ | hs := step_next_cases lost <;> cases hs.symm.trans ht
  · exact inv_finish_accept hl (finish_upc lost) finished
  · exact inv_boundary finished

/-- Settles O9: a step ends at `Idle` with the invariant, whose part at that label is that the context is at rest. -/
theorem commandsLeaveTheContextAtRest : Obligations.CommandsLeaveTheContextAtRest := by
  intro s t c hi ht hc
  have after := labelInv_of_inv (everyStepKeepsTheInvariant s t hi ht)
  obtain ⟨t', ht', idle, -⟩ := everyStepEndsIdle s (lostContext_of_inv hi)
  cases ht'.symm.trans ht
  have rest : atRest c t = true := by simpa [labelInv, idle, restOrEmpty, hc] using after
  exact ⟨idle, (atRest_iff c t).mp rest⟩

end Sys2Proof.Machine
end

section
/-! PROOFS. The boundary between two micro-steps (R42, R191), the switch to lazy service over whole runs (R199), and
what the foreground writes to a live context and to the data line (R42, R231). -/

namespace Sys2Proof.Machine

/-! ## The boundary -/

/-- Settles O44: the pending bit becomes its disjunction with `armed`. -/
theorem edgePendsOnlyWhileArmed : Obligations.EdgePendsOnlyWhileArmed := fun s =>
  ⟨fun h => by simp [raiseEdge_eq, h], fun h => by simp [raiseEdge_eq, h]⟩

/-- The handler reads and writes no input (R151). -/
theorem ackIrq_env (s : State) : (ackIrq s).env = s.env := by
  cases hc : s.ctx with
  | none => simp [ackIrq, withCtx, hc]
  | some c =>
    by_cases hs : c.state = .ackWait
    · rw [ackIrq_taken s c hc hs]
    · rw [ackIrq_ignored s c hc hs]

theorem serveIfEnabled_env (s : State) : (serveIfEnabled s).env = s.env := by
  unfold serveIfEnabled
  split
  · exact ackIrq_env s
  · rfl

theorem applyMoves_env (ms : List Move) (s : State) : (applyMoves ms s).env = s.env := by
  induction ms generalizing s with
  | nil => rfl
  | cons m ms ih =>
    cases m with
    | edge => exact ih (raiseEdge s)
    | serve => exact (ih (serveIfEnabled s)).trans (serveIfEnabled_env s)

theorem servicePending_env (s : State) : (servicePending s).env = s.env := by
  unfold servicePending
  split
  · exact serveIfEnabled_env s
  · rfl

/-- A boundary uses one entry of the script (log entry 2). -/
theorem boundary_env (s : State) : (boundary s).env = afterMoves 1 s.env := by
  simp [boundary, servicePending_env, applyMoves_env, afterMoves]

/-- Settles O45: no operation of the other agents goes beyond `EnvironmentChange`, and only the boundary itself
touches the script. -/
theorem otherAgentsTouchOnlyTheSharedData : Obligations.OtherAgentsTouchOnlyTheSharedData := fun s =>
  ⟨environmentChange_boundary s, boundary_env s⟩

/-! ## The switch to lazy service -/

/-- A tick under prompt service is one under lazy service, with some script for what is to come (R199). -/
theorem exists_tick_underLazy (s : State) (h : s.cfg.irqService = .prompt) (rest : List (List Move)) :
    ∃ ms, tick (underLazy ms s) = underLazy rest (tick s) := by
  by_cases hu : s.upc = .idle
  · exact ⟨rest, by rw [tick_idle s hu, tick_idle (underLazy rest s) hu]⟩
  · refine ⟨(s.env.moves.headD [] ++ [.serve]) :: rest, ?_⟩
    rw [tick_busy s hu, tick_busy (underLazy _ s) hu, boundary_underLazy rest s h, fgStep_underLazy]

/-- So is a run of micro-steps, at every point of it. -/
theorem exists_ticks_underLazy (n : Nat) (s : State) (h : s.cfg.irqService = .prompt) (rest : List (List Move)) :
    ∃ ms, ticks n (underLazy ms s) = underLazy rest (ticks n s) ∧
      ∀ k ≤ n, ∃ rest', ticks k (underLazy ms s) = underLazy rest' (ticks k s) := by
  induction n generalizing s with
  | zero => exact ⟨rest, rfl, fun k hk => ⟨rest, by rw [Nat.le_zero.mp hk]; rfl⟩⟩
  | succ n ih =>
    obtain ⟨later, whole, points⟩ := ih (tick s) (tick_cfg s ▸ h)
    obtain ⟨ms, first⟩ := exists_tick_underLazy s h later
    refine ⟨ms, by rw [ticks_succ, first, whole, ticks_succ], fun k hk => ?_⟩
    cases k with
    | zero => exact ⟨ms, rfl⟩
    | succ k =>
      obtain ⟨rest', point⟩ := points k (Nat.le_of_succ_le_succ hk)
      exact ⟨rest', by rw [ticks_succ, first, point, ticks_succ]⟩

theorem exists_finish_underLazy (s : State) (h : s.cfg.irqService = .prompt) (rest : List (List Move)) :
    ∃ ms, finish (underLazy ms s) = underLazy rest (finish s) := by
  obtain ⟨ms, whole, -⟩ := exists_ticks_underLazy maxMicroSteps s h rest
  exact ⟨ms, whole⟩

theorem exists_runCommand_underLazy (w : Word) (l : Label) (s : State) (h : s.cfg.irqService = .prompt)
    (rest : List (List Move)) :
    ∃ ms, runCommand w l (underLazy ms s) = mapNext (underLazy rest) (runCommand w l s) := by
  obtain ⟨later, run⟩ := exists_finish_underLazy (accept w l (finish s)) (finish_cfg s ▸ h) rest
  obtain ⟨ms, before⟩ := exists_finish_underLazy s h later
  have accepted : accept w l (underLazy later (finish s)) = underLazy later (accept w l (finish s)) := rfl
  refine ⟨ms, ?_⟩
  unfold runCommand
  rw [lostContext_underLazy, before, accepted, run]
  split <;> rfl

theorem exists_idleTurn_underLazy (s : State) (h : s.cfg.irqService = .prompt) (rest : List (List Move)) :
    ∃ ms, idleTurn (underLazy ms s) = mapNext (underLazy rest) (idleTurn s) := by
  obtain ⟨ms, before⟩ := exists_finish_underLazy s h (((finish s).env.moves.headD [] ++ [.serve]) :: rest)
  refine ⟨ms, ?_⟩
  unfold idleTurn
  rw [lostContext_underLazy, before, boundary_underLazy rest (finish s) (finish_cfg s ▸ h)]
  split <;> rfl

/-- A step under prompt service is one under lazy service. -/
theorem exists_step_underLazy (s : State) (h : s.cfg.irqService = .prompt) (rest : List (List Move)) :
    ∃ ms, step (underLazy ms s) = mapNext (underLazy rest) (step s) := by
  unfold step
  simp only [underLazy_turns]
  split
  · next w _ _ =>
    split
    · next i _ =>
      simp only [exec_eq_runCommand]
      exact exists_runCommand_underLazy (encode i) (firstLabel i) (dropTurn s) h rest
    · exact exists_runCommand_underLazy w .x0 (dropTurn s) h rest
  · exact exists_idleTurn_underLazy (dropTurn s) h rest
  · exact exists_idleTurn_underLazy s h rest

/-- No step writes the configuration. -/
theorem step_cfg {s t : State} (ht : step s = .next t) : t.cfg = s.cfg := by
  have kept : lostContext s = false := by
    by_contra hl
    rw [Bool.not_eq_false] at hl
    cases ((emptySlotFaultsOnlyWhereNoRunGoes.1 s).mpr hl).symm.trans ht
  obtain ⟨t', ht', -, cfg⟩ := everyStepEndsIdle s kept
  cases ht'.symm.trans ht
  exact cfg

/-- So is a run of steps, at every point of it. -/
theorem exists_steps_underLazy (n : Nat) (s : State) (h : s.cfg.irqService = .prompt) :
    ∃ ms, ∀ k ≤ n, ∃ rest, steps k (underLazy ms s) = mapNext (underLazy rest) (steps k s) := by
  induction n generalizing s with
  | zero => exact ⟨[], fun k hk => ⟨[], by rw [Nat.le_zero.mp hk]; rfl⟩⟩
  | succ n ih =>
    obtain ⟨later, points⟩ : ∃ later, ∀ t, step s = .next t → ∀ k ≤ n, ∃ rest,
        steps k (underLazy later t) = mapNext (underLazy rest) (steps k t) := by
      cases hs : step s with
      | next t =>
        obtain ⟨later, points⟩ := ih t (step_cfg hs ▸ h)
        exact ⟨later, fun t' ht' => by cases ht'; exact points⟩
      | fault r | refused r => exact ⟨[], fun t ht => nomatch ht⟩
    obtain ⟨ms, first⟩ := exists_step_underLazy s h later
    refine ⟨ms, fun k hk => ?_⟩
    cases k with
    | zero => exact ⟨ms, rfl⟩
    | succ k =>
      simp only [steps, first]
      cases hs : step s with
      | next t => exact points t hs k (Nat.le_of_succ_le_succ hk)
      | fault r | refused r => exact ⟨[], rfl⟩

/-- Settles O47: each boundary's entry of the script gets a run of the handler at its end, and the scripts of the
parts of a run are put together from its end. -/
theorem lazyServiceAdmitsEveryPromptRun : Obligations.LazyServiceAdmitsEveryPromptRun := by
  intro n s h
  obtain ⟨ms, -, points⟩ := exists_ticks_underLazy n s h []
  exact ⟨⟨ms, points⟩, exists_steps_underLazy n s h⟩

/-! ## A live context over a step -/

/-- What the foreground and the handler never write in a context that stays (R42). -/
def identity (c : Context) : Context := { c with state := .ready, ackEventCount := 0 }

/-- The slot is empty, or the context in it has the identity of `c`. -/
def SameIdentity (c : Context) (s : State) : Prop := ∀ c', s.ctx = some c' → identity c' = identity c

section
variable {c : Context} {s t : State} {n m : Nat}

theorem SameIdentity.environmentChange (h : SameIdentity c s) (e : EnvironmentChange s t) : SameIdentity c t := by
  intro c₁ hc₁
  obtain ⟨-, ht⟩ | ⟨c₀, c', hs, ht, hm⟩ := e.ctx
  · cases hc₁.symm.trans ht
  · obtain rfl : c₁ = c' := Option.some.inj (hc₁.symm.trans ht)
    obtain rfl | ⟨-, rfl⟩ := hm
    · exact h _ hs
    · exact h c₀ hs

/-- While the context is counted, no other is constructed, so the foreground keeps its identity. -/
theorem SameIdentity.tick (h : SameIdentity c s) (hcount : CountedOrReleased n m s) : SameIdentity c (tick s) := by
  by_cases hu : s.upc = .idle
  · rwa [tick_idle s hu]
  · rw [tick_busy s hu]
    have change := environmentChange_boundary s
    have h6 : (boundary s).upc ≠ .i6 := change.upc ▸ hcount.ne_i6
    obtain ⟨counted, -⟩ | ⟨-, idle⟩ := hcount
    · obtain ⟨c₀, hc₀, -⟩ := counted.boundary
      intro c' hc'
      have kept := ignoringState_eq_of_fgStep h6 hc₀ hc'
      exact (congrArg identity kept).trans (h.environmentChange change c₀ hc₀)
    · exact absurd idle hu

theorem SameIdentity.ticks (h : SameIdentity c s) (hcount : CountedOrReleased n m s) (j : Nat) :
    SameIdentity c (ticks j s) := by
  induction j generalizing s with
  | zero => exact h
  | succ j ih => exact ih (h.tick hcount) hcount.tick

/-- Over a step from `Idle` a context that stays keeps its identity. -/
theorem identity_eq_of_step {c' : Context} (hu : s.upc = .idle) (ht : step s = .next t) (hc : s.ctx = some c)
    (hc' : t.ctx = some c') : identity c' = identity c := by
  have before : SameIdentity c s := fun c₀ hc₀ => congrArg identity (Option.some.inj (hc₀.symm.trans hc))
  obtain ⟨w, l, hl, hstep⟩ | hstep := step_of_turns s.env.turns
  · obtain rfl : finish (accept w l (dropTurn s)) = t := by simpa [hstep s hu rfl] using ht
    exact SameIdentity.ticks (s := accept w l (dropTurn s)) before (countedOrReleased_accept hc w hl) _ c' hc'
  · obtain rfl : boundary (dropTurn s) = t := by simpa [hstep s hu rfl] using ht
    exact SameIdentity.environmentChange (s := dropTurn s) before (environmentChange_boundary _) c' hc'

end

/-- Settles O50: the identity is kept at every tick until the context is released, and the counter is that of O51. -/
theorem liveContextIsImmutableButForStateAndCount : Obligations.LiveContextIsImmutableButForStateAndCount := by
  intro s t c c' hu ht hc hc'
  have same := identity_eq_of_step hu ht hc hc'
  simp only [identity, Context.mk.injEq, true_and] at same
  obtain ⟨haddr, hclk, hdat, hack, htag⟩ := same
  have ⟨le, _⟩ := counterOnlyCountsTheTakenRuns.1 s t c c' hu ht hc hc'
  exact ⟨haddr, hclk, hdat, hack, htag, le⟩

/-! ## The data line -/

/-- The labels at which the foreground writes the data line (R231). -/
def dataLabels : List Label := [.i4, .s2, .p4, .b0, .a1, .a4]

section
variable {s : State}

/-- The micro-step from `s` to `t` is not a write of the data line `dat`. -/
def NotDataWrite (dat : LineId) (s t : State) : Prop := ∀ v, t.trace ≠ s.trace ++ [.lineWrite dat v]

/-- A micro-step whose events, if there are any, are no line writes. -/
theorem notDataWrite_of_events {dat : LineId} {t : State} (es : List Event) (htr : t.trace = s.trace ++ es)
    (hes : ∀ e ∈ es, isLineWrite e = false) : NotDataWrite dat s t := by
  intro v h
  obtain rfl := List.append_cancel_left (htr.symm.trans h)
  exact absurd (hes _ (List.mem_singleton_self _)) (by simp [isLineWrite])

/-- A write of another line. -/
theorem notDataWrite_lineWrite {dat id : LineId} {v : Level} {l : Label} (h : id ≠ dat) :
    NotDataWrite dat s (goto l (lineWrite id v s)) := by
  intro v' htr
  simp only [goto_trace, lineWrite_trace] at htr
  have := List.append_cancel_left htr
  simp_all

theorem notDataWrite_withCtx {dat : LineId} {f : Context → State}
    (hf : ∀ c, s.ctx = some c → NotDataWrite dat s (f c)) : NotDataWrite dat s (withCtx s f) := by
  unfold withCtx
  split
  · next c hc => exact hf c hc
  · exact notDataWrite_of_events [] (by simp) (by simp)

/-- A micro-step without an event. -/
theorem notDataWrite_of_trace_eq {dat : LineId} {t : State} (h : t.trace = s.trace) : NotDataWrite dat s t :=
  notDataWrite_of_events [] (by simp [h]) (by simp)

/-- A micro-step with one event, which is no line write. -/
theorem notDataWrite_of_event {dat : LineId} {t : State} (e : Event) (he : isLineWrite e = false)
    (h : t.trace = s.trace ++ [e]) : NotDataWrite dat s t :=
  notDataWrite_of_events [e] h (by simp [he])

theorem notDataWrite_respond {dat : LineId} (st : Status) (h : Handle) : NotDataWrite dat s (respond st h s) :=
  notDataWrite_of_event (.resp st h) rfl rfl

theorem notDataWrite_handleCheck {dat : LineId} (l : Label) : NotDataWrite dat s (handleCheck l s) := by
  unfold handleCheck
  split
  · exact notDataWrite_of_trace_eq rfl
  · exact notDataWrite_respond _ _

theorem notDataWrite_entryTransition {dat : LineId} (q : ProtoState) (l : Label) :
    NotDataWrite dat s (entryTransition q l s) := by
  refine notDataWrite_withCtx fun c _ => ?_
  dsimp only
  split
  · exact notDataWrite_of_trace_eq rfl
  · exact notDataWrite_respond _ _

/-- Outside its own labels the foreground does not write the data line, where the clock line is another. -/
theorem notDataWrite_fgStep (hu : s.upc ∉ dataLabels) (hlines : busClockLine s ≠ busDataLine s)
    (h5 : s.upc = .i5 → s.ctx = none) : NotDataWrite (busDataLine s) s (fgStep s) := by
  have clock : ∀ c, s.ctx = some c → c.clockLine ≠ busDataLine s := fun c hc => by
    simpa [busClockLine, hc] using hlines
  unfold fgStep
  cases hl : s.upc with
  | i4 | s2 | p4 | b0 | a1 | a4 => simp [hl, dataLabels] at hu
  | idle | i6 | w2 => exact notDataWrite_of_trace_eq rfl
  | i0 | i1 =>
    simp only [microI0, microI1]
    split
    · exact notDataWrite_of_trace_eq rfl
    · exact notDataWrite_respond _ _
  | i2 =>
    simp only [microI2]
    split
    · exact notDataWrite_respond _ _
    · split
      · exact notDataWrite_respond _ _
      · exact notDataWrite_of_trace_eq rfl
  | i3 =>
    simp only [microI3]
    split
    · exact notDataWrite_respond _ _
    · split
      · exact notDataWrite_of_event _ rfl rfl
      · exact notDataWrite_of_events [_, _] (List.append_assoc ..) (by simp [isLineWrite])
  | i5 => exact notDataWrite_lineWrite (by simpa [busClockLine, h5 hl] using hlines)
  | i7 =>
    refine notDataWrite_withCtx fun c _ => ?_
    dsimp only
    split
    · split
      · exact notDataWrite_of_event _ rfl rfl
      · exact notDataWrite_of_events [_, _] (List.append_assoc ..) (by simp [isLineWrite])
    · exact notDataWrite_of_trace_eq rfl
  | i8 => exact notDataWrite_withCtx fun c _ => notDataWrite_respond _ _
  | f0 =>
    simp only [microF0]
    split
    · exact notDataWrite_respond _ _
    · exact notDataWrite_of_trace_eq rfl
  | f2 =>
    refine notDataWrite_of_events ((if s.armed then [.disarm] else []) ++ [.resp .ok 0#16]) ?_ ?_ <;>
      cases ha : s.armed <;> simp [microF2, disarm, ha, isLineWrite]
  | f1 | s0 | w0 | p0 => exact notDataWrite_handleCheck _
  | s1 | w1 | p1 => exact notDataWrite_entryTransition _ _
  | s3 | p3 | p5 | a5 => exact notDataWrite_of_event (.delay _) rfl rfl
  | s6 | w4 | p6 | x0 => exact notDataWrite_respond _ _
  | s4 | p2 | b1 | a2 | a3 => exact notDataWrite_withCtx fun c hc => notDataWrite_lineWrite (clock c hc)
  | b2 =>
    refine notDataWrite_withCtx fun c hc => ?_
    dsimp only
    split
    · exact notDataWrite_lineWrite (clock c hc)
    · exact notDataWrite_lineWrite (l := .b0) (clock c hc)
  | s5 | w3 | a6 => exact notDataWrite_withCtx fun c _ => notDataWrite_of_trace_eq rfl
  | a0 =>
    refine notDataWrite_withCtx fun c _ => ?_
    dsimp only
    split <;> exact notDataWrite_of_trace_eq rfl
  | a7 =>
    refine notDataWrite_withCtx fun c _ => ?_
    split <;> exact notDataWrite_of_trace_eq rfl

end

/-- Settles O52: the foreground writes the data line at six labels, and at those that are not excepted the invariant
says that the clock line is low. -/
theorem dataLineChangesOnlyWhileTheClockIsLow : Obligations.DataLineChangesOnlyWhileTheClockIsLow := by
  intro s v hi hlines htr
  have here := labelInv_of_inv hi
  by_cases hu : s.upc ∈ dataLabels
  · simp only [dataLabels, List.mem_cons, List.not_mem_nil, or_false] at hu
    obtain hl | hl | hl | hl | hl | hl := hu
    · exact .inr (.inr (.inr hl))
    · exact .inr (.inl hl)
    · exact .inr (.inr (.inl hl))
    all_goals
      simp only [labelInv, hl, Bool.and_eq_true, beq_iff_eq] at here
      left
      simp only [here]
  · have h5 : s.upc = .i5 → s.ctx = none := fun hl => by
      simp only [labelInv, hl, Bool.and_eq_true] at here
      simpa [ctxValid] using here.1.1.1
    exact absurd htr (notDataWrite_fgStep hu hlines h5 v)

end Sys2Proof.Machine
end

section
/-! PROOFS. Commands that are quiet to their end: refusals (R76, R101, R112, R174, R175), `FREE`, and `STOP`, run in the
foreground's view. -/

namespace Sys2Proof.Machine

/-! ## Quiet runs -/

/-- No context of the state is in `AckWait`, so the handler's runs do not reach the foreground's view of it. -/
def NotWaiting (s : State) : Prop := ∀ c, s.ctx = some c → c.state ≠ .ackWait

/-- From the view `v` the foreground makes `n` micro-steps on its own to `v'`, none of them at `Idle` or in
`AckWait`. -/
def QuietRun (n : Nat) (v v' : State) : Prop := quietFor n v ∧ quietTicks n v = v'

section
variable {s t v v' v'' : State} {m n : Nat}

theorem QuietRun.refl (v : State) : QuietRun 0 v v := ⟨trivial, rfl⟩

/-- One quiet micro-step, and then the rest. -/
theorem QuietRun.step (hu : v.upc ≠ .idle) (hq : NotWaiting v) (hv : fgStep (dropMoves v) = v')
    (h : QuietRun n v' v'') : QuietRun (n + 1) v v'' := by
  subst hv
  exact ⟨⟨hu, hq, h.1⟩, h.2⟩

theorem QuietRun.trans (h : QuietRun m v v') (h' : QuietRun n v' v'') : QuietRun (m + n) v v'' := by
  induction m generalizing v with
  | zero =>
    obtain ⟨-, rfl⟩ := h
    rwa [Nat.zero_add]
  | succ m ih =>
    obtain ⟨⟨hu, hq, hm⟩, hv⟩ := h
    rw [Nat.succ_add]
    exact QuietRun.step hu hq rfl (ih ⟨hm, hv⟩)

/-- What the foreground sees of a run that is quiet. -/
theorem QuietRun.fgView_ticks (h : QuietRun n (fgView s) v) : fgView (ticks n s) = v :=
  (Machine.fgView_ticks n s h.1).trans h.2

/-- A command that is quiet to its response. -/
theorem QuietRun.runCommand {w : Word} {l : Label} (h : QuietRun n (accept w l (fgView s)) v) (hn : n ≤ 39)
    (hs : s.upc = .idle) (hi : v.upc = .idle) : ∃ t, runCommand w l s = .next t ∧ fgView t = v :=
  runCommand_quiet n hn hs h.1 h.2 hi

@[simp] theorem dropMoves_ctx (s : State) : (dropMoves s).ctx = s.ctx := rfl

theorem afterMoves_add (m n : Nat) (e : Env) : afterMoves n (afterMoves m e) = afterMoves (m + n) e := by
  simp [afterMoves]

/-! ## Refusals -/

/-- From the view `v` the command responds `st`, `h` after `n` quiet micro-steps that write nothing else. -/
def RespondsAfter (n : Nat) (st : Status) (h : Handle) (v : State) : Prop :=
  QuietRun n v (respond st h { v with env := afterMoves n v.env })

/-- A micro-step that responds. -/
theorem respondsAfter_one {st : Status} {h : Handle} (hu : v.upc ≠ .idle) (hq : NotWaiting v)
    (hv : fgStep (dropMoves v) = respond st h (dropMoves v)) : RespondsAfter 1 st h v :=
  .step hu hq hv (.refl _)

/-- A check that is passed. -/
theorem respondsAfter_succ {st : Status} {h : Handle} {l : Label} (hu : v.upc ≠ .idle) (hq : NotWaiting v)
    (hv : fgStep (dropMoves v) = goto l (dropMoves v)) (hn : RespondsAfter n st h (goto l (dropMoves v))) :
    RespondsAfter (n + 1) st h v := by
  have same : respond st h { goto l (dropMoves v) with env := afterMoves n (goto l (dropMoves v)).env } =
      respond st h { v with env := afterMoves (n + 1) v.env } := by
    simp [respond, goto, dropMoves, afterMoves_add, Nat.add_comm 1 n]
  have run := QuietRun.step hu hq hv hn
  rwa [same] at run

/-- The command `w` was refused after `n` micro-steps with the answer `st`, `h`: only `cmd`, `resp` and `upc` are
written, and the trace has the command and its response (R182). -/
def Refused (w : Word) (n : Nat) (st : Status) (h : Handle) (s t : State) : Prop :=
  RefusedFrame s t ∧ t.cmd = w ∧ t.resp = responseWord st h ∧ fgTrace t = fgTrace s ++ [.cmd w, .resp st h] ∧
    t.env = afterMoves n s.env

/-- A command that responds in the foreground's view is refused in the machine. -/
theorem exists_refused {w : Word} {l : Label} {st : Status} {h : Handle}
    (hr : RespondsAfter n st h (accept w l (fgView s))) (hn : n ≤ 39) (hs : s.upc = .idle) :
    ∃ t, runCommand w l s = .next t ∧ Refused w n st h s t := by
  obtain ⟨t, ht, hv⟩ := hr.runCommand hn hs rfl
  obtain ⟨cfg, ctx, armed, sda, scl, upc, txbyte, bitidx, ret, acked, result, cmd, resp, trace, env⟩ :=
    fields_of_fgView hv
  exact ⟨t, ht, ⟨cfg, ctx, armed, sda, scl, upc, txbyte, bitidx, ret, acked, result⟩, cmd, resp,
    trace.trans (List.append_assoc ..), env⟩

theorem notWaiting_of_inv (hu : s.upc = .idle) (hi : inv s = true) : NotWaiting s := ctx_not_ackWait_of_inv hu hi

theorem notWaiting_of_state {c : Context} (hc : s.ctx = some c) (hq : c.state ≠ .ackWait) : NotWaiting s := by
  intro c' hc'
  obtain rfl : c = c' := Option.some.inj (hc.symm.trans hc')
  exact hq

theorem notWaiting_of_empty (hc : s.ctx = none) : NotWaiting s := fun _ h => nomatch hc.symm.trans h

/-! ## Checks -/

/-- The handle checks, each with the label it goes on to (R110, R175). -/
def checkLabels : List (Label × Label) := [(.f1, .f2), (.s0, .s1), (.w0, .w1), (.p0, .p1)]

/-- The entry transitions, each with the state it asks for and the label it goes on to (R160, R165, R170). -/
def entryLabels : List (Label × ProtoState × Label) := [(.s1, .start, .s2), (.w1, .write, .w2), (.p1, .ready, .p2)]

theorem fgStep_check {l l' : Label} (hl : (l, l') ∈ checkLabels) (hu : s.upc = l) : fgStep s = handleCheck l' s := by
  simp only [checkLabels, List.mem_cons, Prod.mk.injEq, List.not_mem_nil, or_false] at hl
  rcases hl with ⟨rfl, rfl⟩ | ⟨rfl, rfl⟩ | ⟨rfl, rfl⟩ | ⟨rfl, rfl⟩ <;>
    simp [fgStep, hu, microF1, microS0, microW0, microP0]

theorem fgStep_entry {l l' : Label} {q : ProtoState} (hl : (l, q, l') ∈ entryLabels) (hu : s.upc = l) :
    fgStep s = entryTransition q l' s := by
  simp only [entryLabels, List.mem_cons, Prod.mk.injEq, List.not_mem_nil, or_false] at hl
  rcases hl with ⟨rfl, rfl, rfl⟩ | ⟨rfl, rfl, rfl⟩ | ⟨rfl, rfl, rfl⟩ <;>
    simp [fgStep, hu, microS1, microW1, microP1]

theorem ne_idle_of_check : ∀ p ∈ checkLabels, p.1 ≠ .idle := by decide

theorem ne_idle_of_entry : ∀ p ∈ entryLabels, p.1 ≠ .idle := by decide

/-- A handle that names the live context passes the check. -/
theorem fgStep_check_pass {l l' : Label} (hl : (l, l') ∈ checkLabels) (hu : s.upc = l)
    (hh : handleOk (cmdHandle s) s = true) : fgStep s = goto l' s := by
  rw [fgStep_check hl hu, handleCheck, if_pos hh]

/-- Any other handle is answered with `E_HANDLE`. -/
theorem respondsAfter_check {l l' : Label} (hl : (l, l') ∈ checkLabels) (hu : v.upc = l) (hq : NotWaiting v)
    (hh : handleOk (cmdHandle v) v = false) : RespondsAfter 1 .badHandle (cmdHandle v) v := by
  refine respondsAfter_one (hu ▸ ne_idle_of_check _ hl) hq ?_
  rw [fgStep_check (s := dropMoves v) hl hu, handleCheck, if_neg (by rw [Bool.not_eq_true]; exact hh)]
  rfl

/-- A granted entry transition. -/
theorem fgStep_entry_grant {l l' : Label} {q : ProtoState} {c : Context} (hl : (l, q, l') ∈ entryLabels)
    (hu : s.upc = l) (hc : s.ctx = some c) (hq : q = c.state ∨ (c.state, q) ∈ legalEdges) :
    fgStep s = goto l' (setCtx { c with state := q } s) := by
  have grant : transition q c = (.ok, { c with state := q }) := by
    obtain rfl | hq := hq
    · exact transition_self c
    · exact transition_legal hq
  simp [fgStep_entry hl hu, entryTransition, withCtx, hc, grant]

/-- A pair without an edge is answered with `E_INVALID_TRANSITION` and nothing is driven (R163, R167, R172). -/
theorem respondsAfter_entry {l l' : Label} {q : ProtoState} {c : Context} (hl : (l, q, l') ∈ entryLabels)
    (hu : v.upc = l) (hc : v.ctx = some c) (hw : c.state ≠ .ackWait) (hq : (c.state, q) ∈ refusedPairs) :
    RespondsAfter 1 .invalidTransition (cmdHandle v) v := by
  refine respondsAfter_one (hu ▸ ne_idle_of_entry _ hl) (notWaiting_of_state hc hw) ?_
  have hc' : (dropMoves v).ctx = some c := hc
  simp only [fgStep_entry (s := dropMoves v) hl hu, entryTransition, withCtx, hc', transition_refused hq]
  rfl

/-! ## The handles of the commands (R72, R73) -/

theorem fieldHandle_start (h : Handle) : fieldHandle (encode (.start h)) = h := fieldHandle_wordH 0x2#4 h

theorem fieldHandle_write (b : Byte) (h : Handle) : fieldHandle (encode (.write b h)) = h := fieldHandle_wordW b h

theorem fieldHandle_stop (h : Handle) : fieldHandle (encode (.stop h)) = h := fieldHandle_wordH 0x4#4 h

theorem fieldHandle_free (h : Handle) : fieldHandle (encode (.free h)) = h := fieldHandle_wordH 0x5#4 h

/-- The check of an accepted command's handle is that of the handle the host gave. -/
theorem handleOk_accept {w : Word} {l : Label} {h : Handle} (field : fieldHandle w = h) :
    handleOk (cmdHandle (accept w l (fgView s))) (accept w l (fgView s)) = handleOk h s := by
  subst field
  rfl

/-! ## The envelope's refusals -/

/-- The commands of the envelope with the handle `h`, each with its handle check and its entry transition. -/
theorem envelope_cases {i : Instr} {h : Handle} (hi : i = .start h ∨ (∃ b, i = .write b h) ∨ i = .stop h) :
    fieldHandle (encode i) = h ∧ ∃ l, (firstLabel i, l) ∈ checkLabels := by
  obtain rfl | ⟨b, rfl⟩ | rfl := hi
  · exact ⟨fieldHandle_start h, .s1, by simp [firstLabel, checkLabels]⟩
  · exact ⟨fieldHandle_write b h, .w1, by simp [firstLabel, checkLabels]⟩
  · exact ⟨fieldHandle_stop h, .p1, by simp [firstLabel, checkLabels]⟩

/-- An envelope operation with a handle that does not name the live context (R175). -/
theorem exists_refused_envelope {i : Instr} {h : Handle} (hi : i = .start h ∨ (∃ b, i = .write b h) ∨ i = .stop h)
    (hs : s.upc = .idle) (hq : NotWaiting s) (hh : handleOk h s = false) :
    ∃ t, exec i s = .next t ∧ Refused (encode i) 1 .badHandle h s t := by
  obtain ⟨field, l, hl⟩ := envelope_cases hi
  rw [exec_eq_runCommand]
  refine exists_refused ?_ (by decide) hs
  have refused := respondsAfter_check (v := accept (encode i) (firstLabel i) (fgView s)) hl rfl hq
    ((handleOk_accept field).trans hh)
  rwa [cmdHandle, accept_cmd, field] at refused

end

section
variable {s v : State} {h : Handle}

/-- The handle check of the live context's own handle, and then an entry transition without an edge. -/
theorem respondsAfter_check_entry {l l' l'' : Label} {q : ProtoState} {c : Context} (hcheck : (l, l') ∈ checkLabels)
    (hentry : (l', q, l'') ∈ entryLabels) (hu : v.upc = l) (hh : handleOk (cmdHandle v) v = true)
    (hc : v.ctx = some c) (hw : c.state ≠ .ackWait) (hq : (c.state, q) ∈ refusedPairs) :
    RespondsAfter 2 .invalidTransition (cmdHandle v) v :=
  respondsAfter_succ (hu ▸ ne_idle_of_check _ hcheck) (notWaiting_of_state hc hw)
    (fgStep_check_pass (s := dropMoves v) hcheck hu hh)
    (respondsAfter_entry (v := goto l' (dropMoves v)) hentry rfl hc hw hq)

/-- An envelope operation with the live context's handle in a state without the edge it asks for (R176). -/
theorem exists_refused_transition {i : Instr} {l l' : Label} {q : ProtoState} {c : Context}
    (hcheck : (firstLabel i, l) ∈ checkLabels) (hentry : (l, q, l') ∈ entryLabels) (field : fieldHandle (encode i) = h)
    (hs : s.upc = .idle) (hh : handleOk h s = true) (hc : s.ctx = some c) (hw : c.state ≠ .ackWait)
    (hq : (c.state, q) ∈ refusedPairs) :
    ∃ t, exec i s = .next t ∧ Refused (encode i) 2 .invalidTransition h s t := by
  rw [exec_eq_runCommand]
  refine exists_refused ?_ (by decide) hs
  have refused := respondsAfter_check_entry (v := accept (encode i) (firstLabel i) (fgView s)) hcheck hentry rfl
    ((handleOk_accept field).trans hh) hc hw hq
  rwa [cmdHandle, accept_cmd, field] at refused

end

/-- Settles O33: the handle check is the first micro-step of each of the three commands. -/
theorem envelopeRefusesAForeignHandle : Obligations.EnvelopeRefusesAForeignHandle := by
  intro i h s hs hi hh hcmd
  exact exists_refused_envelope hcmd hs (notWaiting_of_inv hs hi) hh

/-- Settles O32: the handle check is passed, and each of the pairs is one of the refusals of R124. -/
theorem envelopeRefusesAnIllegalTransition : Obligations.EnvelopeRefusesAnIllegalTransition := by
  intro i h s c hs hh hc hcmd
  obtain ⟨rfl, hq⟩ | ⟨⟨b, rfl⟩, hq⟩ | ⟨rfl, hq⟩ := hcmd
  · have pair : c.state ≠ .ackWait ∧ (c.state, .start) ∈ refusedPairs := by
      obtain hq | hq := hq <;> rw [hq] <;> decide
    exact exists_refused_transition (l := .s1) (l' := .s2) (q := .start) (by simp [firstLabel, checkLabels]) (by decide)
      (fieldHandle_start h) hs hh hc pair.1 pair.2
  · have pair : c.state ≠ .ackWait ∧ (c.state, .write) ∈ refusedPairs := by rw [hq]; decide
    exact exists_refused_transition (l := .w1) (l' := .w2) (q := .write) (by simp [firstLabel, checkLabels]) (by decide)
      (fieldHandle_write b h) hs hh hc pair.1 pair.2
  · have pair : c.state ≠ .ackWait ∧ (c.state, .ready) ∈ refusedPairs := by rw [hq]; decide
    exact exists_refused_transition (l := .p1) (l' := .p2) (q := .ready) (by simp [firstLabel, checkLabels]) (by decide)
      (fieldHandle_stop h) hs hh hc pair.1 pair.2

/-! ## `FREE` and the illegal word -/

section
variable {s v : State} {h : Handle}

/-- `F0` ends the command for the null handle and goes on for any other (R112). -/
theorem fgStep_f0 (hu : s.upc = .f0) :
    fgStep s = if cmdHandle s = 0#16 then respond .ok 0#16 s else goto .f1 s := by
  simp [fgStep, hu, microF0]

/-- `FREE` of the null handle (R112 (a)). -/
theorem exists_free_null (hs : s.upc = .idle) (hq : NotWaiting s) :
    ∃ t, exec (.free 0#16) s = .next t ∧ Refused (encode (.free 0#16)) 1 .ok 0#16 s t := by
  refine exists_refused (respondsAfter_one (by simp) hq ?_) (by decide) hs
  rw [fgStep_f0 rfl, if_pos]
  exact fieldHandle_free 0#16

/-- `FREE` passes `F0` with a handle that is not null. -/
theorem fgStep_f0_pass (hu : s.upc = .f0) (h0 : cmdHandle s ≠ 0#16) : fgStep s = goto .f1 s := by
  rw [fgStep_f0 hu, if_neg h0]

/-- `FREE` of a handle that is neither null nor the live context's (R112 (c), (d)). -/
theorem exists_free_foreign (hs : s.upc = .idle) (hq : NotWaiting s) (h0 : h ≠ 0#16) (hh : handleOk h s = false) :
    ∃ t, exec (.free h) s = .next t ∧ Refused (encode (.free h)) 2 .badHandle h s t := by
  have field := fieldHandle_free h
  refine exists_refused (respondsAfter_succ (l := .f1) (by simp) hq ?_ ?_) (by decide) hs
  · exact fgStep_f0_pass rfl fun h' => h0 (field.symm.trans h')
  · have refused := respondsAfter_check (l := .f1) (l' := .f2)
      (v := goto .f1 (dropMoves (accept (encode (.free h)) .f0 (fgView s)))) (by decide) rfl hq
      (show handleOk (fieldHandle (encode (.free h))) s = false from field.symm ▸ hh)
    rwa [show cmdHandle (goto .f1 (dropMoves (accept (encode (.free h)) .f0 (fgView s)))) = h from field] at refused

end

/-- Settles O25: `F0` answers the null handle. -/
theorem freeOfTheNullHandleIsANoOp : Obligations.FreeOfTheNullHandleIsANoOp := fun _ hs hi =>
  exists_free_null hs (notWaiting_of_inv hs hi)

/-- Settles O27: `F0` passes the handle and `F1` refuses it. -/
theorem freeRefusesAForeignHandle : Obligations.FreeRefusesAForeignHandle := fun _ _ hs hi h0 hh =>
  exists_free_foreign hs (notWaiting_of_inv hs hi) h0 hh

/-- Settles O34: with an empty slot no handle passes a check. -/
theorem emptySlotAnswersBeforeInit : Obligations.EmptySlotAnswersBeforeInit := by
  intro s h hs hc
  have quiet := notWaiting_of_empty hc
  have none_live : handleOk h s = false := by simp [handleOk, hc]
  refine ⟨fun i hi => ?_, ?_⟩
  · obtain hi | ⟨rfl, h0⟩ : (i = .start h ∨ (∃ b, i = .write b h) ∨ i = .stop h) ∨ (i = .free h ∧ h ≠ 0#16) := by
      simpa only [or_assoc] using hi
    · obtain ⟨t, ht, frame, -, resp, -⟩ := exists_refused_envelope hi hs quiet none_live
      exact ⟨t, ht, frame.ctx.trans hc, resp⟩
    · obtain ⟨t, ht, frame, -, resp, -⟩ := exists_free_foreign hs quiet h0 none_live
      exact ⟨t, ht, frame.ctx.trans hc, resp⟩
  · obtain ⟨t, ht, frame, -, resp, -⟩ := exists_free_null hs quiet
    exact ⟨t, ht, frame.ctx.trans hc, resp⟩

/-- Taking a turn off the list is no change of a register. -/
theorem refusedFrame_of_dropTurn {s t : State} (h : RefusedFrame (dropTurn s) t) : RefusedFrame s t :=
  ⟨h.cfg, h.ctx, h.armed, h.sdaDrv, h.sclDrv, h.upc, h.txbyte, h.bitidx, h.ret, h.acked, h.result⟩

/-- Settles O13: an illegal word does not decode, and `X0` answers it at once. -/
theorem illegalWordHasNoOtherEffect : Obligations.IllegalWordHasNoOtherEffect := by
  intro s w rest hs hi ht hw
  obtain ⟨e, he⟩ : ∃ e, decode w = .error e := by
    cases hd : decode w with
    | error e => exact ⟨e, rfl⟩
    | ok i => exact absurd ((decoderAcceptsExactlyTheLegalWords w).mp ⟨i, hd⟩) (by simp [hw])
  have run : step s = execIllegal w (dropTurn s) := by simp [step, ht, he]
  have illegal : RespondsAfter 1 .illegalCmd 0#16 (accept w .x0 (fgView (dropTurn s))) :=
    respondsAfter_one (by simp) (show NotWaiting s from notWaiting_of_inv hs hi) rfl
  obtain ⟨t, hnext, frame, cmd, resp, trace, env⟩ := exists_refused illegal (by decide) hs
  exact ⟨t, run.trans hnext, refusedFrame_of_dropTurn frame, cmd, resp, trace, by simp [env, ht]⟩

end Sys2Proof.Machine
end

section
/-! PROOFS. Quiet commands that write the slot or the lines: `STOP` (R170), `FREE` (R110) and `INIT` (R101). -/

namespace Sys2Proof.Machine

section
variable {s v : State} {c : Context}

/-! ## `STOP` (R170) -/

theorem fgStep_p2 (hu : s.upc = .p2) (hc : s.ctx = some c) : fgStep s = goto .p3 (lineWrite c.clockLine true s) := by
  simp [fgStep, hu, microP2, withCtx, hc]

theorem fgStep_p3 (hu : s.upc = .p3) : fgStep s = goto .p4 (delay .tSuSto s) := by
  simp [fgStep, hu, microP3]

theorem fgStep_p4 (hu : s.upc = .p4) (hc : s.ctx = some c) : fgStep s = goto .p5 (lineWrite c.dataLine true s) := by
  simp [fgStep, hu, microP4, withCtx, hc]

theorem fgStep_p5 (hu : s.upc = .p5) : fgStep s = goto .p6 (delay .tBuf s) := by
  simp [fgStep, hu, microP5]

theorem fgStep_p6 (hu : s.upc = .p6) : fgStep s = respond .ok (cmdHandle s) s := by
  simp [fgStep, hu, microP6]

/-- The view `v` of a `STOP` that was accepted with the context `c`, at its response. -/
def stopped (c : Context) (v : State) : State :=
  { v with
    ctx := some { c with state := .ready }
    sdaDrv := some true
    sclDrv := some true
    upc := .idle
    resp := responseWord .ok (cmdHandle v)
    trace := v.trace ++ stopEvents c.clockLine c.dataLine ++ [.resp .ok (cmdHandle v)]
    env := afterMoves 7 v.env }

/-- `STOP` from `Stop` or `Ready`, micro-step by micro-step (R170). -/
theorem quietRun_stop (hu : v.upc = .p0) (hh : handleOk (cmdHandle v) v = true) (hc : v.ctx = some c)
    (hq : c.state = .stop ∨ c.state = .ready) : QuietRun 7 v (stopped c v) := by
  have edge : .ready = c.state ∨ (c.state, .ready) ∈ legalEdges := by
    obtain hq | hq := hq <;> rw [hq] <;> decide
  have rest : c.state ≠ .ackWait := by obtain hq | hq := hq <;> simp [hq]
  have quiet : NotWaiting v := notWaiting_of_state hc rest
  refine .step (by simp [hu]) quiet (fgStep_check_pass (l' := .p1) (s := dropMoves v) (by decide) hu hh) ?_
  refine .step (by simp) quiet
    (fgStep_entry_grant (l := .p1) (l' := .p2) (q := .ready) (c := c) (by decide) rfl hc edge) ?_
  refine .step (by simp) (notWaiting_of_state rfl (by simp)) (fgStep_p2 rfl rfl) ?_
  refine .step (by simp) (notWaiting_of_state rfl (by simp)) (fgStep_p3 rfl) ?_
  refine .step (by simp) (notWaiting_of_state rfl (by simp)) (fgStep_p4 rfl rfl) ?_
  refine .step (by simp) (notWaiting_of_state rfl (by simp)) (fgStep_p5 rfl) ?_
  refine .step (by simp) (notWaiting_of_state rfl (by simp)) (fgStep_p6 rfl) ?_
  refine ⟨trivial, ?_⟩
  simp [quietTicks, stopped, stopEvents, respond, goto, delay, logEvent, lineWrite, setCtx, dropMoves, afterMoves_add,
    busClockLine, busDataLine, cmdHandle]

/-! ## `FREE` of the live handle (R110) -/

/-- The view `v` of a `FREE` that was accepted with the live context's handle, at its response. -/
def freed (v : State) : State := respond .ok 0#16 (releaseCtx (disarm { v with env := afterMoves 3 v.env }))

theorem freed_trace (v : State) :
    (freed v).trace = (if v.armed then v.trace ++ [Event.disarm] else v.trace) ++ [Event.resp .ok 0#16] := rfl

theorem quietRun_free (hu : v.upc = .f0) (h0 : cmdHandle v ≠ 0#16) (hh : handleOk (cmdHandle v) v = true)
    (hq : NotWaiting v) : QuietRun 3 v (freed v) := by
  refine .step (by simp [hu]) hq (fgStep_f0_pass (s := dropMoves v) hu h0) ?_
  refine .step (by simp) hq (fgStep_check_pass (l := .f1) (l' := .f2) (by decide) rfl hh) ?_
  refine .step (by simp) hq (fgStep_f2 rfl) ⟨trivial, ?_⟩
  simp [quietTicks, freed, respond, releaseCtx, disarm, goto, dropMoves, afterMoves_add]

/-- Under the invariant the live context's handle is not the null handle (R28). -/
theorem ne_zero_of_handleOk {h : Handle} (hi : inv s = true) (hh : handleOk h s = true) : h ≠ 0#16 := by
  obtain ⟨wf, -⟩ := (inv_iff s).mp hi
  obtain ⟨c, hc⟩ := Option.isSome_iff_exists.mp (ctxValid_of_handleOk hh)
  have tag := wf c hc
  simp only [contextWf, Bool.and_eq_true, bne_iff_ne] at tag
  exact eq_selfTag_of_handleOk hh hc ▸ tag.2

/-- A disarmed interrupt is not pending under the invariant (R191, R194). -/
theorem irqPending_of_disarmed (hi : inv s = true) (ha : s.armed = false) : s.irqPending = false := by
  obtain ⟨-, -, pending, -⟩ := (inv_iff s).mp hi
  simpa [pendingInv, ha] using pending

end

/-- Settles O31: the entry transition is granted from both states, and the lines are written by `P2` and `P4`. -/
theorem stopEndsTheTransaction : Obligations.StopEndsTheTransaction := by
  intro h s c hs hh hc hq
  have field := fieldHandle_stop h
  have run := quietRun_stop (v := accept (encode (.stop h)) .p0 (fgView s)) (c := c) rfl
    ((handleOk_accept field).trans hh) hc hq
  obtain ⟨t, ht, hv⟩ := run.runCommand (by decide) hs rfl
  obtain ⟨cfg, ctx, armed, sda, scl, upc, txbyte, bitidx, ret, acked, result, cmd, resp, trace, env⟩ :=
    fields_of_fgView hv
  rw [stopped, cmdHandle, accept_cmd, field] at resp trace
  exact ⟨t, ht, ctx, armed, sda, scl, upc, cfg, txbyte, bitidx, ret, acked, result, cmd, resp, trace, env⟩

/-- Settles O26: `F0` and `F1` pass the handle and `F2` releases; nothing pends after it because nothing is armed. -/
theorem freeReleasesTheContext : Obligations.FreeReleasesTheContext := by
  intro h s hs hi hh
  have field := fieldHandle_free h
  have run := quietRun_free (v := accept (encode (.free h)) .f0 (fgView s)) rfl
    (show fieldHandle (encode (.free h)) ≠ 0#16 from field.symm ▸ ne_zero_of_handleOk hi hh)
    ((handleOk_accept field).trans hh) (show NotWaiting s from notWaiting_of_inv hs hi)
  obtain ⟨t, ht, hv⟩ := run.runCommand (by decide) hs rfl
  obtain ⟨cfg, ctx, armed, sda, scl, upc, txbyte, bitidx, ret, acked, result, cmd, resp, trace, env⟩ :=
    fields_of_fgView hv
  have pending := irqPending_of_disarmed (inv_exec (i := .free h) hs hi ht) armed
  refine ⟨t, ht, ctx, armed, pending, sda, scl, upc, cfg, txbyte, bitidx, ret, acked, result, cmd, resp, ?_, env⟩
  rw [trace, freed_trace, accept_armed, accept_trace]
  show (if s.armed then _ else _) ++ _ = _
  split <;> simp [fgView]

/-- Settles O28: the first `FREE` answers the null handle, and the second one is O25 in the state it left. -/
theorem freeTwiceIsIdempotent : Obligations.FreeTwiceIsIdempotent := by
  intro h s hs hi hh
  obtain ⟨t, ht, -, armed, -, -, -, idle, -, -, -, -, -, -, -, resp, -, -⟩ := freeReleasesTheContext h s hs hi hh
  have inv_t := inv_exec hs hi ht
  obtain ⟨u, hu, frame, -, resp_u, -, -⟩ := freeOfTheNullHandleIsANoOp t idle inv_t
  have returned : respHandle t = 0#16 := by rw [respHandle, resp, extract_handle_responseWord]
  exact ⟨t, u, ht, returned ▸ hu, frame,
    irqPending_of_disarmed (inv_exec idle inv_t hu) (frame.armed.trans armed), resp_u⟩

/-! ## The checks of `INIT` (R101, R103) -/

section
variable {s v : State}

theorem fgStep_i0 (hu : s.upc = .i0) :
    fgStep s = if cmdSlotOk s then goto .i1 s else respond .invalidSlot 0#16 s := by
  simp [fgStep, hu, microI0]

theorem fgStep_i1 (hu : s.upc = .i1) :
    fgStep s = if cmdLinesValid s then goto .i2 s else respond .invalidLine 0#16 s := by
  simp [fgStep, hu, microI1, cmdLinesValid]

theorem fgStep_i2 (hu : s.upc = .i2) :
    fgStep s = if reservedAddress (shiftedAddress (cmdPeerAddress s)) then respond .reservedAddr 0#16 s
      else if addressTooLarge (shiftedAddress (cmdPeerAddress s)) then respond .addrTooLarge 0#16 s
      else goto .i3 s := by
  simp [fgStep, hu, microI2]

theorem fgStep_i3_alloc (hu : s.upc = .i3) (hv : ctxValid s = true) : fgStep s = respond .alloc 0#16 s := by
  simp [fgStep, hu, microI3, hv]

/-- The view `v` of an accepted `INIT` at the label `l`, `n` checks passed. -/
def passed (l : Label) (n : Nat) (v : State) : State := goto l { v with env := afterMoves n v.env }

theorem dropMoves_passed (l : Label) (n : Nat) (v : State) : dropMoves (passed l n v) = passed l (n + 1) v := by
  simp [dropMoves, passed, goto, afterMoves_add]

/-- A check of `INIT` at the label `l` that is passed. -/
theorem quietRun_check {l l' : Label} {n : Nat} (hl : l ≠ .idle) (hq : NotWaiting v) (h : QuietRun n v (passed l n v))
    (hstep : fgStep (passed l (n + 1) v) = passed l' (n + 1) v) : QuietRun (n + 1) v (passed l' (n + 1) v) :=
  h.trans (.step (v := passed l n v) hl hq (dropMoves_passed l n v ▸ hstep) (.refl _))

/-- A check of `INIT` at the label `l` that fails. -/
theorem respondsAfter_failed {l : Label} {n : Nat} {st : Status} (hl : l ≠ .idle) (hq : NotWaiting v)
    (h : QuietRun n v (passed l n v))
    (hstep : fgStep (passed l (n + 1) v) = respond st 0#16 (passed l (n + 1) v)) : RespondsAfter (n + 1) st 0#16 v :=
  h.trans (.step (v := passed l n v) hl hq (dropMoves_passed l n v ▸ hstep) (.refl _))

theorem quietRun_i0 (hu : v.upc = .i0) : QuietRun 0 v (passed .i0 0 v) := by
  refine ⟨trivial, ?_⟩
  simp [quietTicks, passed, goto, afterMoves, ← hu]

theorem quietRun_i1 (hu : v.upc = .i0) (hq : NotWaiting v) (hslot : cmdSlotOk v = true) :
    QuietRun 1 v (passed .i1 1 v) :=
  quietRun_check (by decide) hq (quietRun_i0 hu)
        ((fgStep_i0 rfl).trans (if_pos hslot))

theorem quietRun_i2 (hu : v.upc = .i0) (hq : NotWaiting v) (hslot : cmdSlotOk v = true)
    (hlines : cmdLinesValid v = true) : QuietRun 2 v (passed .i2 2 v) :=
  quietRun_check (by decide) hq (quietRun_i1 hu hq hslot) ((fgStep_i1 rfl).trans (if_pos hlines))

theorem quietRun_i3 (hu : v.upc = .i0) (hq : NotWaiting v) (hslot : cmdSlotOk v = true)
    (hlines : cmdLinesValid v = true)
    (hr : ¬ reservedAddress (shiftedAddress (cmdPeerAddress v)) = true)
    (ht : ¬ addressTooLarge (shiftedAddress (cmdPeerAddress v)) = true) : QuietRun 3 v (passed .i3 3 v) :=
  quietRun_check (by decide) hq (quietRun_i2 hu hq hslot hlines)
    ((fgStep_i2 rfl).trans ((if_neg hr).trans (if_neg ht)))

/-- The view of an accepted `INIT` fails at its first failing check (R103). -/
theorem respondsAfter_initRefusal {st : Status} {n : Nat} (hu : v.upc = .i0) (hq : NotWaiting v)
    (h : initRefusal (cmdSlotOk v) (cmdPeerAddress v) (cmdClockLine v) (cmdDataLine v) v = some (st, n)) :
    n ≤ 4 ∧ RespondsAfter n st 0#16 v := by
  unfold initRefusal at h
  split at h
  · next hslot =>
    cases h
    exact ⟨by decide, respondsAfter_failed (by decide) hq (quietRun_i0 hu)
        ((fgStep_i0 rfl).trans (if_neg (Bool.eq_false_iff.mp hslot)))⟩
  · next hslot =>
    rw [Bool.not_eq_false] at hslot
    split at h
    · next hlines =>
      cases h
      exact ⟨by decide, respondsAfter_failed (by decide) hq (quietRun_i1 hu hq hslot)
          ((fgStep_i1 rfl).trans (if_neg (Bool.eq_false_iff.mp hlines)))⟩
    · next hlines =>
      rw [Bool.not_eq_false] at hlines
      have at2 := quietRun_i2 hu hq hslot hlines
      split at h
      · next hr =>
        cases h
        exact ⟨by decide, respondsAfter_failed (by decide) hq at2 ((fgStep_i2 rfl).trans (if_pos hr))⟩
      · next hr =>
        split at h
        · next ht =>
          cases h
          exact ⟨by decide, respondsAfter_failed (by decide) hq at2
            ((fgStep_i2 rfl).trans ((if_neg hr).trans (if_pos ht)))⟩
        · next ht =>
          split at h
          · next hv =>
            cases h
            exact ⟨by decide, respondsAfter_failed (by decide) hq (quietRun_i3 hu hq hslot hlines hr ht)
              (fgStep_i3_alloc rfl hv)⟩
          · cases h

/-- Where no check fails, each of them is passed. -/
theorem checks_of_initRefusal_none {slotOk : Bool} {a : Byte} {clk dat : LineId}
    (h : initRefusal slotOk a clk dat s = none) :
    slotOk = true ∧ (validLine s.cfg clk && validLine s.cfg dat) = true ∧ ¬ reservedAddress (shiftedAddress a) = true ∧
      ¬ addressTooLarge (shiftedAddress a) = true ∧ s.ctx = none := by
  unfold initRefusal at h
  split at h
  · cases h
  · split at h
    · cases h
    · split at h
      · cases h
      · split at h
        · cases h
        · split at h
          · cases h
          · simp_all [ctxValid]

end

/-! ## The construction of `INIT` (R104 to R106) -/

/-- The script of moves and the scripts of answers are used apart. -/
theorem nextCfgAnswer_afterMoves (n : Nat) (e : Env) :
    nextCfgAnswer (afterMoves n e) = ((nextCfgAnswer e).1, afterMoves n (nextCfgAnswer e).2) := by
  cases h : e.cfgAnswers <;> simp [nextCfgAnswer, afterMoves, h]

theorem nextArmAnswer_afterMoves (n : Nat) (e : Env) :
    nextArmAnswer (afterMoves n e) = ((nextArmAnswer e).1, afterMoves n (nextArmAnswer e).2) := by
  cases h : e.armAnswers <;> simp [nextArmAnswer, afterMoves, h]

theorem nextTagDraw_afterMoves (n : Nat) (e : Env) :
    nextTagDraw (afterMoves n e) = ((nextTagDraw e).1, afterMoves n (nextTagDraw e).2) := by
  cases h : e.tagDraws <;> simp [nextTagDraw, afterMoves, h]

section
variable {s v : State}

/-- An accepted `INIT` whose checks of `I0` to `I3` are all passed. -/
structure InitAccepted (v : State) : Prop where
  upc    : v.upc = .i0
  empty  : v.ctx = none
  checks : QuietRun 3 v (passed .i3 3 v)

theorem initAccepted_of_initRefusal_none (hu : v.upc = .i0)
    (h : initRefusal (cmdSlotOk v) (cmdPeerAddress v) (cmdClockLine v) (cmdDataLine v) v = none) : InitAccepted v := by
  obtain ⟨hslot, hlines, hr, ht, hc⟩ := checks_of_initRefusal_none h
  exact ⟨hu, hc, quietRun_i3 hu (notWaiting_of_empty hc) hslot hlines hr ht⟩

theorem fgStep_i3_fail (hu : s.upc = .i3) (hc : s.ctx = none) (ha : (nextCfgAnswer s.env).1 = .fail) :
    fgStep s = respond .lineConfig 0#16 (lineCfg (cmdClockLine s) (cmdDataLine s) s).2 := by
  simp [fgStep, hu, microI3, ctxValid, hc, lineCfg, ha]

theorem fgStep_i3_ok (hu : s.upc = .i3) (hc : s.ctx = none) (ha : (nextCfgAnswer s.env).1 = .ok) :
    fgStep s = goto .i4 (lineCfg (cmdClockLine s) (cmdDataLine s) s).2 := by
  simp [fgStep, hu, microI3, ctxValid, hc, lineCfg, ha]

theorem fgStep_i4 (hu : s.upc = .i4) : fgStep s = goto .i5 (lineWrite (cmdDataLine s) true s) := by
  simp [fgStep, hu, microI4]

theorem fgStep_i5 (hu : s.upc = .i5) : fgStep s = goto .i6 (lineWrite (cmdClockLine s) true s) := by
  simp [fgStep, hu, microI5]

theorem fgStep_i8 {c : Context} (hu : s.upc = .i8) (hc : s.ctx = some c) : fgStep s = respond .ok c.selfTag s := by
  simp [fgStep, hu, microI8, withCtx, hc]

/-- The view `v` of an accepted `INIT` after its `LineCfg` call. -/
def configured (v : State) : State :=
  { v with
    trace := v.trace ++ [.cfg (cmdClockLine v) (cmdDataLine v) (nextCfgAnswer v.env).1]
    env := afterMoves 4 (nextCfgAnswer v.env).2 }

theorem lineCfg_passed (v : State) :
    lineCfg (cmdClockLine v) (cmdDataLine v) (passed .i3 4 v) =
      ((nextCfgAnswer v.env).1, { configured v with upc := .i3 }) := by
  simp [lineCfg, configured, passed, goto, nextCfgAnswer_afterMoves]

/-- `LineCfg` answers `fail` (R101). -/
theorem InitAccepted.quietRun_fail (h : InitAccepted v) (ha : (nextCfgAnswer v.env).1 = .fail) :
    QuietRun 4 v (respond .lineConfig 0#16 (configured v)) := by
  have answer : (nextCfgAnswer (passed .i3 4 v).env).1 = .fail := by
    simpa [passed, goto, nextCfgAnswer_afterMoves] using ha
  have last : fgStep (dropMoves (passed .i3 3 v)) = respond .lineConfig 0#16 (configured v) := by
    rw [dropMoves_passed, fgStep_i3_fail (s := passed .i3 4 v) rfl h.empty answer]
    exact congrArg (fun x => respond .lineConfig 0#16 x.2) (lineCfg_passed v)
  exact h.checks.trans (.step (by simp [passed]) (notWaiting_of_empty h.empty) last (.refl _))

/-- `LineCfg` answers `ok`. -/
theorem InitAccepted.quietRun_ok (h : InitAccepted v) (ha : (nextCfgAnswer v.env).1 = .ok) :
    QuietRun 4 v (goto .i4 (configured v)) := by
  have answer : (nextCfgAnswer (passed .i3 4 v).env).1 = .ok := by
    simpa [passed, goto, nextCfgAnswer_afterMoves] using ha
  have next : fgStep (dropMoves (passed .i3 3 v)) = goto .i4 (configured v) := by
    rw [dropMoves_passed, fgStep_i3_ok (s := passed .i3 4 v) rfl h.empty answer]
    exact congrArg (fun x => goto .i4 x.2) (lineCfg_passed v)
  exact h.checks.trans (.step (by simp [passed]) (notWaiting_of_empty h.empty) next (.refl _))

/-- The tag that `I6` draws after `LineCfg` has answered. -/
def drawnTag (v : State) : Handle := tagOfDraw (nextTagDraw (nextCfgAnswer v.env).2).1

/-- The view `v` of an accepted `INIT` after the construction of `I6`: both lines high, data first, and the context in
the slot (R104, R105). -/
def constructed (v : State) : State :=
  { v with
    ctx := some (freshContext (drawnTag v) v)
    sdaDrv := some true
    sclDrv := some true
    trace := v.trace ++ [.cfg (cmdClockLine v) (cmdDataLine v) .ok, .lineWrite (cmdDataLine v) true,
      .lineWrite (cmdClockLine v) true]
    env := afterMoves 7 (nextTagDraw (nextCfgAnswer v.env).2).2 }

theorem InitAccepted.quietRun_constructed (h : InitAccepted v) (ha : (nextCfgAnswer v.env).1 = .ok) :
    QuietRun 7 v (goto .i7 (constructed v)) := by
  have empty : (configured v).ctx = none := h.empty
  refine (h.quietRun_ok ha).trans (n := 3)
    (.step (by simp) (notWaiting_of_empty (by simpa using empty)) (fgStep_i4 rfl) ?_)
  refine .step (by simp) (notWaiting_of_empty (by simpa using empty)) (fgStep_i5 rfl) ?_
  refine .step (by simp) (notWaiting_of_empty (by simpa using empty)) (fgStep_i6 rfl) ⟨trivial, ?_⟩
  simp [quietTicks, constructed, configured, drawnTag, setCtx, drawTag, freshContext, lineWrite, dropMoves, goto,
    afterMoves_add, nextTagDraw_afterMoves, ha, cmdClockLine, cmdDataLine, cmdPeerAddress, cmdAck, busDataLine,
    busClockLine, h.empty]

/-- The inputs after `LineCfg` and the draw of the tag, from which `ArmIrq` is answered. -/
def envAtArming (v : State) : Env := (nextTagDraw (nextCfgAnswer v.env).2).2

theorem armIrq_constructed (v : State) :
    armIrq (cmdDataLine v) (dropMoves (goto .i7 (constructed v))) = ((nextArmAnswer (envAtArming v)).1,
      { constructed v with
        upc := .i7
        trace := (constructed v).trace ++ [.arm (cmdDataLine v) (nextArmAnswer (envAtArming v)).1]
        env := afterMoves 8 (nextArmAnswer (envAtArming v)).2 }) := by
  simp [armIrq, dropMoves, goto, constructed, afterMoves_add, nextArmAnswer_afterMoves, envAtArming]

/-- The context that was constructed at `I6` is in `Ready`, so the micro-steps after it are quiet. -/
theorem notWaiting_constructed (hc : s.ctx = some (freshContext (drawnTag v) v)) : NotWaiting s :=
  notWaiting_of_state hc (by simp [freshContext])

/-- `ArmIrq` answers `fail`: the context is released again (R106). -/
theorem InitAccepted.quietRun_irqArm (h : InitAccepted v) (ha : (nextCfgAnswer v.env).1 = .ok)
    (hack : cmdAck v = true) (harm : (nextArmAnswer (envAtArming v)).1 = .fail) :
    QuietRun 8 v (respond .irqArm 0#16 { constructed v with
      ctx := none
      trace := (constructed v).trace ++ [.arm (cmdDataLine v) .fail]
      env := afterMoves 8 (nextArmAnswer (envAtArming v)).2 }) := by
  refine (h.quietRun_constructed ha).trans (.step (by simp) (notWaiting_constructed (v := v) rfl) ?_ (.refl _))
  have answer := armIrq_constructed v
  obtain ⟨off, -⟩ | ⟨-, ok, -⟩ | ⟨-, -, heq⟩ := fgStep_i7_cases (s := dropMoves (goto .i7 (constructed v))) rfl rfl
  · exact absurd off (by simp [freshContext, hack])
  · simp [freshContext, answer, harm] at ok
  · simp [heq, freshContext, answer, harm, respond, releaseCtx]

/-- The view `v` of an accepted `INIT` at its success (R106, R108). -/
def initialised (v : State) : State :=
  respond .ok (drawnTag v) { constructed v with
    armed := cmdAck v
    trace := (constructed v).trace ++ (if cmdAck v then [.arm (cmdDataLine v) .ok] else [])
    env := afterMoves 9 (if cmdAck v then (nextArmAnswer (envAtArming v)).2 else envAtArming v) }

/-- No check fails and every answer is `ok`: the interrupt is armed exactly when asked for, and the tag is answered. -/
theorem InitAccepted.quietRun_initialised (h : InitAccepted v) (ha : (nextCfgAnswer v.env).1 = .ok)
    (hoff : v.armed = false) (harm : cmdAck v = true → (nextArmAnswer (envAtArming v)).1 = .ok) :
    QuietRun 9 v (initialised v) := by
  have answer := armIrq_constructed v
  refine (h.quietRun_constructed ha).trans (n := 2) ?_
  obtain ⟨off, heq⟩ | ⟨on, -, heq⟩ | ⟨on, fail, -⟩ :=
    fgStep_i7_cases (s := dropMoves (goto .i7 (constructed v))) rfl rfl
  · have hack : cmdAck v = false := off
    refine .step (by simp) (notWaiting_constructed (v := v) rfl) heq ?_
    refine .step (by simp) (notWaiting_constructed (v := v) rfl) (fgStep_i8 rfl rfl) ⟨trivial, ?_⟩
    simp [quietTicks, initialised, respond, dropMoves, goto, constructed, afterMoves_add, freshContext, hack, hoff,
      envAtArming]
  · have hack : cmdAck v = true := on
    rw [show (freshContext (drawnTag v) v).dataLine = cmdDataLine v from rfl, answer, harm hack] at heq
    refine .step (by simp) (notWaiting_constructed (v := v) rfl) heq ?_
    refine .step (by simp) (notWaiting_constructed (v := v) rfl) (fgStep_i8 rfl rfl) ⟨trivial, ?_⟩
    simp [quietTicks, initialised, respond, dropMoves, goto, setArmed, constructed, afterMoves_add, freshContext, hack]
  · exact absurd (fail.symm.trans ((congrArg Prod.fst answer).trans (harm on))) (by decide)

end

/-! ## `INIT` from `Idle` -/

section
variable {ack slotOk : Bool} {a : Byte} {clk dat : LineId} {s : State}

/-- The view of an accepted `INIT`. -/
def initView (ack slotOk : Bool) (a : Byte) (clk dat : LineId) (s : State) : State :=
  accept (encode (.init ack slotOk a clk dat)) .i0 (fgView s)

theorem cmdAck_initView : cmdAck (initView ack slotOk a clk dat s) = ack := fieldAck_wordI ..
theorem cmdPeerAddress_initView : cmdPeerAddress (initView ack slotOk a clk dat s) = a := fieldPeerAddress_wordI ..
theorem cmdClockLine_initView : cmdClockLine (initView ack slotOk a clk dat s) = clk := fieldClockLine_wordI ..
theorem cmdDataLine_initView : cmdDataLine (initView ack slotOk a clk dat s) = dat := fieldDataLine_wordI ..

theorem trace_initView : (initView ack slotOk a clk dat s).trace =
    fgTrace s ++ [.cmd (encode (.init ack slotOk a clk dat))] := rfl

theorem env_initView : (initView ack slotOk a clk dat s).env = s.env := rfl

/-- The checks read the operands of the command and the state in which it was accepted. -/
theorem initRefusal_initView :
    initRefusal (cmdSlotOk (initView ack slotOk a clk dat s)) (cmdPeerAddress (initView ack slotOk a clk dat s))
      (cmdClockLine (initView ack slotOk a clk dat s)) (cmdDataLine (initView ack slotOk a clk dat s))
      (initView ack slotOk a clk dat s) = initRefusal slotOk a clk dat s := by
  rw [show cmdSlotOk (initView ack slotOk a clk dat s) = slotOk from fieldSlotOk_wordI .., cmdPeerAddress_initView,
    cmdClockLine_initView, cmdDataLine_initView]
  rfl

theorem initAccepted_initView (h : initRefusal slotOk a clk dat s = none) :
    InitAccepted (initView ack slotOk a clk dat s) :=
  initAccepted_of_initRefusal_none rfl (initRefusal_initView.trans h)

end

/-- Settles O20: the checks of the view are those of the state, and the first that fails answers. -/
theorem initEndsAtItsFirstFailingCheck : Obligations.InitEndsAtItsFirstFailingCheck := by
  intro ack slotOk a clk dat s st n hs hi h
  have quiet : NotWaiting (initView ack slotOk a clk dat s) := show NotWaiting s from notWaiting_of_inv hs hi
  obtain ⟨hn, fails⟩ := respondsAfter_initRefusal rfl quiet (initRefusal_initView.trans h)
  exact exists_refused fails (by omega) hs

/-- Settles O21: `I3` finds an empty slot, and `LineCfg` answers `fail`. -/
theorem initFailsWhenTheLinesAreNotConfigured : Obligations.InitFailsWhenTheLinesAreNotConfigured := by
  intro ack a clk dat s hs hi h ha
  have accepted := initAccepted_initView (ack := ack) h
  obtain ⟨t, ht, hv⟩ := (accepted.quietRun_fail ha).runCommand (by decide) hs rfl
  obtain ⟨cfg, ctx, armed, sda, scl, upc, txbyte, bitidx, ret, acked, result, cmd, resp, trace, env⟩ :=
    fields_of_fgView hv
  refine ⟨t, ht, ⟨cfg, ctx, armed, sda, scl, upc, txbyte, bitidx, ret, acked, result⟩, ctx.trans accepted.empty, cmd,
    resp, trace.trans ?_, env⟩
  simp [configured, trace_initView, env_initView, cmdClockLine_initView, cmdDataLine_initView, ha]

/-- Settles O22: `I7` finds the constructed context, and `ArmIrq` answers `fail`. -/
theorem initReleasesTheContextWhenArmingFails : Obligations.InitReleasesTheContextWhenArmingFails := by
  intro a clk dat s hs hi h ha harm
  have accepted := initAccepted_initView (ack := true) h
  have disarmed : s.armed = false := disarmed_of_inv hi accepted.empty
  obtain ⟨t, ht, hv⟩ := (accepted.quietRun_irqArm ha cmdAck_initView harm).runCommand (by decide) hs rfl
  obtain ⟨cfg, ctx, armed, sda, scl, upc, txbyte, bitidx, ret, acked, result, cmd, resp, trace, env⟩ :=
    fields_of_fgView hv
  refine ⟨t, ht, ctx, armed.trans disarmed, sda, scl, upc, cfg, txbyte, bitidx, ret, acked, result, cmd, resp,
    trace.trans ?_, env⟩
  simp [constructed, trace_initView, cmdClockLine_initView, cmdDataLine_initView]

/-- Settles O23: every micro-step of `INIT` is passed. -/
theorem initConstructsTheContext : Obligations.InitConstructsTheContext := by
  intro ack a clk dat s hs hi h ha harm
  have accepted := initAccepted_initView (ack := ack) h
  have disarmed : s.armed = false := disarmed_of_inv hi accepted.empty
  obtain ⟨-, -, hr, hl, -⟩ := checks_of_initRefusal_none h
  have address : (storedAddress a).toNat = 2 * a.toNat := toNat_storedAddress
    (addressAccepted_of_checks (Bool.eq_false_iff.mpr hr) (Bool.eq_false_iff.mpr hl))
  have run := accepted.quietRun_initialised ha disarmed (by rwa [cmdAck_initView])
  have tag : drawnTag (initView ack true a clk dat s) = tagOfDraw (nextTagDraw (nextCfgAnswer s.env).2).1 := rfl
  obtain ⟨t, ht, hv⟩ := run.runCommand (by decide) hs rfl
  obtain ⟨cfg, ctx, armed, sda, scl, upc, txbyte, bitidx, ret, acked, result, cmd, resp, trace, env⟩ :=
    fields_of_fgView hv
  refine ⟨t, _, rfl, tagOfDraw_ne_zero _, ht, ctx.trans ?_, address, armed.trans cmdAck_initView, sda, scl, upc, cfg,
    txbyte, bitidx, ret, acked, result, cmd, resp, trace.trans ?_, env.trans ?_⟩
  · simp [initialised, constructed, freshContext, cmdClockLine_initView, cmdDataLine_initView, cmdAck_initView,
      cmdPeerAddress_initView, tag]
  · simp [initialised, constructed, trace_initView, cmdClockLine_initView, cmdDataLine_initView, cmdAck_initView, tag]
  · simp [initialised, envAtArming, env_initView, cmdAck_initView]

end Sys2Proof.Machine
end

section
/-! PROOFS. Idle turns of the host (R60, R226): the other agents act once, and outside `AckWait` no context changes. -/

namespace Sys2Proof.Machine

section
variable {s : State}

/-- An idle turn at `Idle` is one boundary. -/
theorem step_of_idleTurn (hs : s.upc = .idle) (ht : s.env.turns = [] ∨ ∃ rest, s.env.turns = .idle :: rest) :
    step s = .next (boundary (dropTurn s)) := by
  have turn : ∀ u : State, u.upc = .idle → idleTurn u = .next (boundary u) := fun u hu => by
    simp [idleTurn, hu, finish_idle]
  obtain ht | ⟨rest, ht⟩ := ht
  · have same : dropTurn s = s := by
      have : s.env.turns.tail = s.env.turns := by rw [ht]; rfl
      simp [dropTurn, this]
    simp [step, ht, turn s hs, same]
  · simp [step, ht, turn (dropTurn s) hs]

/-- Settles O14: outside `AckWait` a boundary shows the foreground nothing but a used entry of the script. -/
theorem idleTurnLeavesTheContextAlone : Obligations.IdleTurnLeavesTheContextAlone := by
  intro s hs hi ht
  have view : fgView (boundary (dropTurn s)) = fgView (dropMoves (dropTurn s)) :=
    fgView_boundary (dropTurn s) (notWaiting_of_inv hs hi)
  obtain ⟨cfg, ctx, armed, sda, scl, upc, txbyte, bitidx, ret, acked, result, cmd, resp, trace, env⟩ :=
    fields_of_fgView view
  exact ⟨_, step_of_idleTurn hs ht, ⟨cfg, ctx, armed, sda, scl, upc.trans hs, txbyte, bitidx, ret, acked, result⟩, cmd,
    resp, trace, env⟩

/-! ## Handler runs that are ignored -/

/-- Outside `AckWait` a run of the handler, where there is a context, is not a taken one (R151). -/
theorem takenRuns_serveIfEnabled (hq : NotWaiting s) : takenRuns (serveIfEnabled s) = takenRuns s := by
  unfold serveIfEnabled
  split
  · next hon =>
    simp only [handlerEnabled, Bool.and_eq_true] at hon
    obtain ⟨c, hc⟩ := Option.isSome_iff_exists.mp hon.1.1
    rw [ackIrq_ignored s c hc (hq c hc)]
    exact count_taken_append (by simp) _
  · rfl

theorem takenRuns_applyMoves (ms : List Move) (hq : NotWaiting s) : takenRuns (applyMoves ms s) = takenRuns s := by
  induction ms generalizing s with
  | nil => rfl
  | cons m ms ih =>
    have quiet : NotWaiting (applyMove m s) := by
      rw [NotWaiting, ctx_of_fgView (fgView_applyMove m s hq)]
      exact hq
    refine (ih quiet).trans ?_
    cases m with
    | edge => exact count_taken_append (by simp) _
    | serve => exact takenRuns_serveIfEnabled hq

/-- A boundary makes the moves of the script's next entry, and then the service discipline applies. -/
theorem boundary_eq (s : State) : boundary s = servicePending (applyMoves (s.env.moves.headD []) (dropMoves s)) := by
  simp [boundary, dropMoves, afterMoves]

theorem takenRuns_boundary (hq : NotWaiting s) : takenRuns (boundary s) = takenRuns s := by
  have moved := takenRuns_applyMoves (s := dropMoves s) (s.env.moves.headD []) hq
  have quiet : NotWaiting (applyMoves (s.env.moves.headD []) (dropMoves s)) := by
    rw [NotWaiting, ctx_of_fgView (fgView_applyMoves _ (dropMoves s) hq)]
    exact hq
  rw [boundary_eq, servicePending]
  split
  · exact (takenRuns_serveIfEnabled quiet).trans moved
  · exact moved

/-- Under prompt service nothing pends between two steps (R193). -/
theorem irqPending_of_prompt (hi : inv s = true) (hp : s.cfg.irqService = .prompt) : s.irqPending = false := by
  obtain ⟨-, -, pending, -⟩ := (inv_iff s).mp hi
  simpa [pendingInv, hp] using pending

/-- Turns without a command word begin with none. -/
theorem idle_head_of_no_word (ts : List HostTurn) (h : ts.any presentsWord = false) :
    ts = [] ∨ ∃ rest, ts = .idle :: rest := by
  rcases ts with - | ⟨w | -, ts⟩
  · exact .inl rfl
  · simp [presentsWord] at h
  · exact .inr ⟨ts, rfl⟩

theorem no_word_tail (ts : List HostTurn) (h : ts.any presentsWord = false) : ts.tail.any presentsWord = false := by
  cases ts with
  | nil => rfl
  | cons t ts =>
    simp only [List.any_cons, Bool.or_eq_false_iff] at h
    exact h.2

end

/-- Settles O15: the step is an idle turn, and its boundary keeps the invariant, by which nothing pends before or after
it. -/
theorem endedRunStaysEnded : Obligations.EndedRunStaysEnded := by
  intro s hi hend hp
  simp only [runEnded, Bool.and_eq_true, beq_iff_eq, Bool.not_eq_true'] at hend
  obtain ⟨⟨hs, hwords⟩, -⟩ := hend
  have turn := idle_head_of_no_word _ hwords
  obtain ⟨t, ht, frame, cmd, resp, trace, env⟩ := idleTurnLeavesTheContextAlone s hs hi turn
  have pending : t.irqPending = false :=
    irqPending_of_prompt (everyStepKeepsTheInvariant s t hi ht) (congrArg Config.irqService frame.cfg ▸ hp)
  have ended : runEnded t = true := by
    simp [runEnded, frame.upc, pending, env, afterMoves, no_word_tail _ hwords]
  have taken : takenRuns t = takenRuns s := by
    cases (step_of_idleTurn hs turn).symm.trans ht
    exact takenRuns_boundary (s := dropTurn s) (notWaiting_of_inv hs hi)
  exact ⟨t, ht, ended, frame, pending.trans (irqPending_of_prompt hi hp).symm, cmd, resp, trace, taken⟩

end Sys2Proof.Machine
end

section
/-! PROOFS. SendByte under any other agents, in the foreground's view (R131 to R136): the data bits are quiet, and in
the acknowledge phase the handler runs at most once, at one of the boundaries before `A1` to `A7`. -/

namespace Sys2Proof.Machine

/-! ## The handler's one edge, taken or not -/

/-- The context `c` after the boundaries of an acknowledge phase: moved along the handler's one edge if `taken`
(R151). -/
def waited (c : Context) (taken : Bool) : Context :=
  if taken then { c with state := .write, ackEventCount := c.ackEventCount + 1 } else c

/-- At the `k`-th tick of a run, if it starts in `AckWait`, the boundary takes the handler's edge exactly if `e k`. -/
def TakesAt (e : Nat → Bool) (k : Nat) (s : State) : Prop :=
  ∀ c, (ticks k s).upc ≠ .idle → (ticks k s).ctx = some c → c.state = .ackWait →
    (boundary (ticks k s)).ctx = some (waited c (e k))

/-- The handler's edge has been taken at one of the `len` boundaries from the `first`-th on. -/
def takenWithin (e : Nat → Bool) (first len : Nat) : Bool := (List.range len).any fun k => e (first + k)

theorem takenWithin_succ (e : Nat → Bool) (first len : Nat) :
    takenWithin e first (len + 1) = (takenWithin e first len || e (first + len)) := by
  simp [takenWithin, List.range_succ]

section
variable {s t v : State} {c : Context} {e : Nat → Bool} {k first len : Nat}

@[simp] theorem waited_false (c : Context) : waited c false = c := rfl
@[simp] theorem waited_dataLine (c : Context) (b : Bool) : (waited c b).dataLine = c.dataLine := by cases b <;> rfl
@[simp] theorem waited_clockLine (c : Context) (b : Bool) : (waited c b).clockLine = c.clockLine := by cases b <;> rfl

theorem ticks_succ' (n : Nat) (s : State) : ticks (n + 1) s = tick (ticks n s) := by rw [ticks_add]; rfl

/-- Whatever the other agents do, each boundary takes the edge or does not. -/
theorem exists_takesAt (s : State) : ∃ e, ∀ k, TakesAt e k s := by
  refine ⟨fun k => decide ((boundary (ticks k s)).ctx ≠ (ticks k s).ctx), fun k c _ hc _ => ?_⟩
  obtain ⟨hnone, -⟩ | ⟨c₀, c', hs, ht, hm⟩ := (environmentChange_boundary (ticks k s)).ctx
  · cases hc.symm.trans hnone
  · obtain rfl : c = c₀ := Option.some.inj (hc.symm.trans hs)
    obtain rfl | ⟨-, rfl⟩ := hm
    · simp [hs, ht]
    · simp [hs, ht, waited]

/-- What the foreground sees of a boundary: a used entry of the script, and the slot as the other agents left it. -/
theorem fgView_boundary_eq (s : State) :
    fgView (boundary s) = { dropMoves (fgView s) with ctx := (boundary s).ctx } := by
  have env := boundary_env s
  obtain ⟨cfg, -, armed, sda, scl, upc, txbyte, bitidx, ret, acked, result, cmd, resp, trace, -, -, -, -, -⟩ :=
    environmentChange_boundary s
  generalize boundary s = t at *
  cases t
  simp only at cfg armed sda scl upc txbyte bitidx ret acked result cmd resp env
  subst_vars
  rw [fgView, trace]
  rfl

/-- A boundary of the acknowledge phase: the edge, once taken, is not taken again. -/
theorem fgView_boundary_waited (hv : fgView (ticks (first + len) s) = setCtx (waited c (takenWithin e first len)) v)
    (hu : v.upc ≠ .idle) (he : TakesAt e (first + len) s) (hq : c.state = .ackWait) :
    fgView (boundary (ticks (first + len) s)) = setCtx (waited c (takenWithin e first (len + 1))) (dropMoves v) := by
  have slot : (ticks (first + len) s).ctx = some (waited c (takenWithin e first len)) := congrArg (·.ctx) hv
  have busy : (ticks (first + len) s).upc ≠ .idle := fun h => hu ((congrArg (·.upc) hv).symm.trans h)
  have after : (boundary (ticks (first + len) s)).ctx = some (waited c (takenWithin e first (len + 1))) := by
    rw [takenWithin_succ]
    cases ht : takenWithin e first len with
    | false =>
      rw [ht] at slot
      simpa using he c busy slot hq
    | true =>
      rw [ht] at slot
      have quiet : NotWaiting (ticks (first + len) s) := notWaiting_of_state slot (by simp [waited])
      exact (ctx_of_fgView (fgView_boundary _ quiet)).trans slot
  rw [fgView_boundary_eq, hv, after]
  rfl

/-- A tick of the acknowledge phase is its micro-step in the context as the other agents left it. -/
theorem fgView_tick_waited (hv : fgView (ticks (first + len) s) = setCtx (waited c (takenWithin e first len)) v)
    (hu : v.upc ≠ .idle) (he : TakesAt e (first + len) s) (hq : c.state = .ackWait) :
    fgView (ticks (first + (len + 1)) s) =
      fgStep (setCtx (waited c (takenWithin e first (len + 1))) (dropMoves v)) := by
  have busy : (ticks (first + len) s).upc ≠ .idle := fun h => hu ((congrArg (·.upc) hv).symm.trans h)
  rw [← Nat.add_assoc, ticks_succ', tick_busy _ busy, fgView_fgStep, fgView_boundary_waited hv hu he hq]

/-- A line write of the acknowledge phase does not depend on whether the edge has been taken. -/
theorem lineWrite_setCtx_waited (hc : s.ctx = some c) (id : LineId) (lvl : Level) (b : Bool) :
    lineWrite id lvl (setCtx (waited c b) s) = setCtx (waited c b) (lineWrite id lvl s) := by
  simp [lineWrite, setCtx, busDataLine, busClockLine, hc]

/-- The ninth clock pulse, `A1` to `A4`: from the view `v` at the label `l` one line write to the label `l'`. -/
theorem fgView_tick_lineWrite {l l' : Label} {line : Context → LineId} {lvl : Level}
    (hv : fgView (ticks (first + len) s) = setCtx (waited c (takenWithin e first len)) v) (hc : v.ctx = some c)
    (hl : v.upc ≠ .idle) (he : TakesAt e (first + len) s) (hq : c.state = .ackWait) (hu : v.upc = l)
    (step : ∀ {t : State} {c : Context}, t.upc = l → t.ctx = some c → fgStep t = goto l' (lineWrite (line c) lvl t))
    (hline : ∀ b, line (waited c b) = line c) :
    fgView (ticks (first + (len + 1)) s) =
      setCtx (waited c (takenWithin e first (len + 1))) (goto l' (lineWrite (line c) lvl (dropMoves v))) := by
  rw [fgView_tick_waited hv hl he hq, step (t := setCtx _ (dropMoves v)) hu rfl, hline,
    lineWrite_setCtx_waited (s := dropMoves v) hc]
  rfl

/-- `A6`: the sample is positive exactly if the edge has been taken at one of the boundaries up to it (R136). -/
theorem fgView_tick_sample (hv : fgView (ticks (first + len) s) = setCtx (waited c (takenWithin e first len)) v)
    (hu : v.upc = .a6) (he : TakesAt e (first + len) s) (hq : c.state = .ackWait) :
    fgView (ticks (first + (len + 1)) s) = setCtx (waited c (takenWithin e first (len + 1)))
      (goto .a7 { dropMoves v with acked := takenWithin e first (len + 1) }) := by
  rw [fgView_tick_waited hv (by simp [hu]) he hq, fgStep_a6 (s := setCtx _ (dropMoves v)) hu rfl]
  cases takenWithin e first (len + 1) <;> simp [setCtx, goto, sampleAck, waited, hq]

/-- `A7`: the result of the sample, the state `Write`, and a counter that also counts an edge taken after the sample
(R136, R138). -/
theorem fgView_tick_return (hv : fgView (ticks (first + len) s) = setCtx (waited c (takenWithin e first len)) v)
    (hu : v.upc = .a7) (he : TakesAt e (first + len) s) (hq : c.state = .ackWait)
    (hacked : v.acked = takenWithin e first len) :
    fgView (ticks (first + (len + 1)) s) = goto (returnLabel v.ret)
      (setResult (if takenWithin e first len then .ok else .nack)
        (setCtx { c with
          state := .write
          ackEventCount := c.ackEventCount + if takenWithin e first (len + 1) then 1 else 0 } (dropMoves v))) := by
  rw [fgView_tick_waited hv (by simp [hu]) he hq]
  cases hs : takenWithin e first len with
  | true =>
    have late : takenWithin e first (len + 1) = true := by simp [takenWithin_succ, hs]
    rw [fgStep_a7_ok (s := setCtx _ (dropMoves v)) hu rfl (hacked.trans hs), late]
    rfl
  | false =>
    rw [fgStep_a7_nack (setCtx _ (dropMoves v)) _ hu rfl (hacked.trans hs)]
    cases takenWithin e first (len + 1) <;> rfl

/-- The view `v` of SendByte at `A1` with the context `c` in `AckWait`, after its return. -/
def answered (c : Context) (sampled late : Bool) (v : State) : State :=
  { v with
    ctx := some { c with state := .write, ackEventCount := c.ackEventCount + if late then 1 else 0 }
    sdaDrv := some false
    sclDrv := some false
    upc := returnLabel v.ret
    acked := sampled
    result := if sampled then .ok else .nack
    trace := v.trace ++ ackEvents c.clockLine c.dataLine
    env := afterMoves 7 v.env }

/-- The acknowledge phase from `A1`: the byte is acknowledged if the edge is taken at one of the six boundaries before
`A1` to `A6`, and counted if it is taken at one of the seven before `A1` to `A7`. -/
theorem fgView_ackPhase (hv : fgView (ticks first s) = v) (hu : v.upc = .a1) (hc : v.ctx = some c)
    (hq : c.state = .ackWait) (he : ∀ k < 7, TakesAt e (first + k) s) :
    fgView (ticks (first + 7) s) = answered c (takenWithin e first 6) (takenWithin e first 7) v := by
  have at1 : fgView (ticks (first + 0) s) = setCtx (waited c (takenWithin e first 0)) v := by
    have same : setCtx c v = v := by cases v; cases hc; rfl
    exact hv.trans same.symm
  have at2 := fgView_tick_lineWrite (line := Context.dataLine) at1 hc (by simp [hu]) (he 0 (by decide)) hq hu
    fgStep_a1 (waited_dataLine c)
  have at3 := fgView_tick_lineWrite (line := Context.clockLine) at2
    (by simpa using hc) (by simp) (he 1 (by decide)) hq rfl fgStep_a2 (waited_clockLine c)
  have at4 := fgView_tick_lineWrite (line := Context.clockLine) at3
    (by simpa using hc) (by simp) (he 2 (by decide)) hq rfl fgStep_a3 (waited_clockLine c)
  have at5 := fgView_tick_lineWrite (line := Context.dataLine) at4
    (by simpa using hc) (by simp) (he 3 (by decide)) hq rfl fgStep_a4 (waited_dataLine c)
  have at6 := (fgView_tick_waited at5 (by simp) (he 4 (by decide)) hq).trans (fgStep_a5 rfl)
  have at7 := fgView_tick_sample (v := goto .a6 (delay .tAckSettle (dropMoves _))) at6 rfl (he 5 (by decide)) hq
  refine (fgView_tick_return at7 rfl (he 6 (by decide)) hq rfl).trans ?_
  simp [answered, setCtx, setResult, goto, lineWrite, delay, dropMoves, afterMoves_add, ackEvents, busDataLine,
    busClockLine, hc]

/-! ## The data bits (R132) -/

/-- The view `v` of SendByte at `B0`, at `B2` of the same bit. -/
def clockedHigh (c : Context) (v : State) : State :=
  { v with
    sdaDrv := if c.clockLine = c.dataLine then some true else some (txBit v)
    sclDrv := some true
    upc := .b2
    trace := v.trace ++ [.lineWrite c.dataLine (txBit v), .lineWrite c.clockLine true]
    env := afterMoves 2 v.env }

theorem quietRun_clockedHigh (hu : v.upc = .b0) (hc : v.ctx = some c) (hq : c.state ≠ .ackWait) :
    QuietRun 2 v (clockedHigh c v) := by
  refine .step (by simp [hu]) (notWaiting_of_state hc hq) (fgStep_b0 (s := dropMoves v) hu hc) ?_
  refine .step (by simp) (notWaiting_of_state hc hq) (fgStep_b1 rfl hc) ⟨trivial, ?_⟩
  simp [quietTicks, clockedHigh, goto, lineWrite, dropMoves, afterMoves_add, txBit, busDataLine,
    busClockLine, hc]

/-- The view `v` of SendByte at `B0` of bit `n`, at `A0`. -/
def bitsSent (c : Context) (n : Nat) (v : State) : State :=
  { v with
    sdaDrv := if c.clockLine = c.dataLine then some false else some (v.txbyte.getLsbD 0)
    sclDrv := some false
    upc := .a0
    bitidx := 0
    trace := v.trace ++ dataBitEvents c.clockLine c.dataLine v.txbyte n
    env := afterMoves (3 * (n + 1)) v.env }

/-- The data bits from bit `n` are quiet: the state is not yet `AckWait`. -/
theorem quietRun_bits {n : Nat} (hu : v.upc = .b0) (hc : v.ctx = some c) (hq : c.state ≠ .ackWait)
    (hn : v.bitidx.val = n) : QuietRun (3 * (n + 1)) v (bitsSent c n v) := by
  induction n generalizing v with
  | zero =>
    have h0 : v.bitidx = 0 := Fin.ext hn
    refine (quietRun_clockedHigh hu hc hq).trans (n := 1) (.step (by simp [clockedHigh]) (notWaiting_of_state hc hq)
      (fgStep_b2_last rfl hc h0) ⟨trivial, ?_⟩)
    simp [quietTicks, bitsSent, clockedHigh, goto, lineWrite, dropMoves, afterMoves_add, txBit, busDataLine,
      busClockLine, hc, h0, dataBitEvents, bitEvents]
    by_cases hl : c.clockLine = c.dataLine <;> simp [hl]
  | succ n ih =>
    have h0 : v.bitidx ≠ 0 := fun h => by simp [h] at hn
    have hpred : (v.bitidx - 1).val = n := by rw [Fin.val_sub_one_of_ne_zero h0, hn]; rfl
    have bit := (quietRun_clockedHigh hu hc hq).trans (.step (by simp [clockedHigh]) (notWaiting_of_state hc hq)
      (fgStep_b2_next rfl hc h0) (.refl _))
    rw [show 3 * (n + 1 + 1) = 2 + (0 + 1) + 3 * (n + 1) by omega]
    have rest := ih (v := goto .b0 (setBitidx (v.bitidx - 1)
      (lineWrite c.clockLine false (dropMoves (clockedHigh c v))))) rfl hc hpred
    have same : bitsSent c n (goto .b0 (setBitidx (v.bitidx - 1)
        (lineWrite c.clockLine false (dropMoves (clockedHigh c v))))) = bitsSent c (n + 1) v := by
      simp [bitsSent, clockedHigh, goto, setBitidx, lineWrite, dropMoves, afterMoves_add, txBit, busDataLine,
        busClockLine, hc, hn, dataBitEvents, bitEvents]
      exact congrArg (afterMoves · v.env) (by omega)
    exact same ▸ bit.trans rest

/-! ## SendByte (R131 to R138) -/

/-- The view `v` of SendByte at its entry with the context `c`, after its return. -/
def sent (c : Context) (sampled late : Bool) (v : State) : State :=
  { v with
    ctx := some { c with state := .write, ackEventCount := c.ackEventCount + if late then 1 else 0 }
    sdaDrv := some false
    sclDrv := some false
    upc := returnLabel v.ret
    bitidx := 0
    acked := sampled
    result := if sampled then .ok else .nack
    trace := v.trace ++ sendByteEvents c.clockLine c.dataLine v.txbyte
    env := afterMoves 32 v.env }

/-- The data bits and `A0` are quiet, and open the window. -/
theorem quietRun_window (hu : v.upc = .b0) (hb : v.bitidx = 7) (hc : v.ctx = some c)
    (hq : (c.state, .ackWait) ∈ legalEdges) :
    QuietRun 25 v (goto .a1 (setCtx { c with state := .ackWait } (dropMoves (bitsSent c 7 v)))) := by
  have closed : c.state ≠ .ackWait := fun h => by simp [h, legalEdges] at hq
  exact (quietRun_bits (n := 7) hu hc closed (congrArg Fin.val hb)).trans (n := 1)
    (.step (by simp [bitsSent]) (notWaiting_of_state hc closed) (fgStep_a0_legal rfl hc hq) (.refl _))

/-- A run that goes on quietly from its `m`-th tick. -/
theorem QuietRun.fgView_ticks_add {v' : State} {m n : Nat} (h : QuietRun n v v') (hv : fgView (ticks m s) = v) :
    fgView (ticks (m + n) s) = v' := by
  subst hv
  rw [ticks_add]
  exact h.fgView_ticks

/-- SendByte from its entry at the `first`-th tick of a run. Its window is the boundaries from the 25th of its own
on. -/
theorem fgView_sendByte (hv : fgView (ticks first s) = v) (hu : v.upc = .b0) (hb : v.bitidx = 7) (hc : v.ctx = some c)
    (hq : (c.state, .ackWait) ∈ legalEdges) (he : ∀ k < 7, TakesAt e (first + 25 + k) s) :
    fgView (ticks (first + 32) s) =
      sent c (takenWithin e (first + 25) 6) (takenWithin e (first + 25) 7) v := by
  have opened := (quietRun_window hu hb hc hq).fgView_ticks_add hv
  refine (fgView_ackPhase opened rfl rfl rfl he).trans ?_
  simp [answered, sent, bitsSent, goto, setCtx, dropMoves, afterMoves_add, sendByteEvents, dataBitEvents_seven]

theorem legal_ackWait (hq : c.state = .start ∨ c.state = .write) : (c.state, .ackWait) ∈ legalEdges := by
  obtain hq | hq := hq <;> rw [hq] <;> decide

/-- SendByte on its own, whatever the other agents do. -/
theorem exists_fgView_sendByte (hu : s.upc = .b0) (hb : s.bitidx = 7) (hc : s.ctx = some c)
    (hq : c.state = .start ∨ c.state = .write) :
    ∃ sampled late, fgView (ticks 32 s) = sent c sampled late (fgView s) := by
  obtain ⟨e, he⟩ := exists_takesAt s
  exact ⟨_, _, fgView_sendByte (first := 0) rfl hu hb hc (legal_ackWait hq) fun k _ => he (0 + 25 + k)⟩

/-! ## How long it takes -/

/-- A run has no more micro-steps left after some ticks than before. -/
theorem stepsLeft_ticks_le (n : Nat) (hlost : lostContext s = false) :
    stepsLeft (ticks n s) ≤ stepsLeft s ∧ lostContext (ticks n s) = false := by
  induction n generalizing s with
  | zero => exact ⟨Nat.le_refl _, hlost⟩
  | succ n ih =>
    by_cases hu : s.upc = .idle
    · rw [ticks_idle _ s hu]
      exact ⟨Nat.le_refl _, hlost⟩
    · obtain ⟨fewer, kept⟩ := advances_tick hlost hu
      obtain ⟨le, kept'⟩ := ih kept
      exact ⟨le.trans fewer.le, kept'⟩

/-- The label that SendByte returns to says how many micro-steps are left. -/
theorem stepsLeft_of_return {r : ReturnLabel} (hu : s.upc = returnLabel r) : stepsLeft s = returnStepsLeft r := by
  cases r <;> simp [stepsLeft, hu, returnLabel, returnStepsLeft]

/-- A run is at its return label only once. -/
theorem ticks_ne_return {r : ReturnLabel} {k n : Nat} (hlost : lostContext s = false) (hk : k < n)
    (hn : (ticks n s).upc = returnLabel r) : (ticks k s).upc ≠ returnLabel r := by
  intro hu
  obtain ⟨m, rfl⟩ := Nat.exists_eq_add_of_lt hk
  have busy : (ticks k s).upc ≠ .idle := by rw [hu]; cases r <;> decide
  obtain ⟨fewer, kept⟩ := advances_tick (stepsLeft_ticks_le k hlost).2 busy
  have le := (stepsLeft_ticks_le m kept).1
  rw [← ticks_succ, ← ticks_add, ← Nat.add_assoc, stepsLeft_of_return hn] at le
  rw [stepsLeft_of_return hu] at fewer
  exact absurd (le.trans_lt fewer) (Nat.lt_irrefl _)

/-! ## What the peer sees (R58) -/

/-- At the one rising edge of a data bit the peer sees its level, and the data line keeps it. -/
theorem wireBits_bitEvents {clk dat : LineId} (hne : clk ≠ dat) (sda v : Level) (t : List Event) :
    wireBits clk dat sda (bitEvents clk dat v ++ t) = v :: wireBits clk dat v t := by
  simp [bitEvents, wireBits, hne]

/-- At the ninth rising edge it sees the released data line. -/
theorem wireBits_ackEvents {clk dat : LineId} (hne : clk ≠ dat) (sda : Level) :
    wireBits clk dat sda (ackEvents clk dat) = [true] := by
  simp [ackEvents, wireBits, hne]

end

/-- Settles O35: the events are those of the view, and the return label is reached once. -/
theorem sendByteTakesThirtyTwoMicroSteps : Obligations.SendByteTakesThirtyTwoMicroSteps := by
  intro s c hu hb hc hq
  obtain ⟨sampled, late, view⟩ := exists_fgView_sendByte hu hb hc hq
  have back : (ticks 32 s).upc = returnLabel s.ret := congrArg (·.upc) view
  have live : lostContext s = false := by simp [lostContext, ctxValid, hc]
  refine ⟨fun k hk => ticks_ne_return live hk back, back, congrArg (·.trace) view, ?_, ?_⟩
  · rfl
  · simp [sendByteEvents, msbFirst, bitEvents, ackEvents]

/-- Settles O37: bit by bit, and then the acknowledge phase. -/
theorem peerSeesTheByteMostSignificantBitFirst : Obligations.PeerSeesTheByteMostSignificantBitFirst := by
  intro s c hu hb hc hq hne
  obtain ⟨sampled, late, view⟩ := exists_fgView_sendByte hu hb hc hq
  refine ⟨sendByteEvents c.clockLine c.dataLine s.txbyte, congrArg (·.trace) view, fun sda => ?_⟩
  simp only [sendByteEvents, msbFirst, List.flatMap_cons, List.flatMap_nil, List.append_nil, List.append_assoc,
    wireBits_bitEvents hne, wireBits_ackEvents hne]

end Sys2Proof.Machine
end

section
/-! PROOFS. `START` (R160) and `WRITE` (R165) under any other agents: a quiet entry, SendByte, and the answer. -/

namespace Sys2Proof.Machine

section
variable {s v : State} {c : Context} {e : Nat → Bool} {h : Handle}

/-! ## `START` -/

theorem fgStep_s2 (hu : s.upc = .s2) (hc : s.ctx = some c) : fgStep s = goto .s3 (lineWrite c.dataLine false s) := by
  simp [fgStep, hu, microS2, withCtx, hc]

theorem fgStep_s3 (hu : s.upc = .s3) : fgStep s = goto .s4 (delay .tHdSta s) := by
  simp [fgStep, hu, microS3]

theorem fgStep_s4 (hu : s.upc = .s4) (hc : s.ctx = some c) : fgStep s = goto .s5 (lineWrite c.clockLine false s) := by
  simp [fgStep, hu, microS4, withCtx, hc]

theorem fgStep_s5 (hu : s.upc = .s5) (hc : s.ctx = some c) :
    fgStep s = enterSendByte (wireAddress c.addrS) .s6 s := by
  simp [fgStep, hu, microS5, withCtx, hc]

/-- `S6` and `W4` answer with SendByte's result. -/
theorem fgStep_answer (hu : s.upc = .s6 ∨ s.upc = .w4) : fgStep s = respond s.result (cmdHandle s) s := by
  obtain hu | hu := hu <;> simp [fgStep, hu, microS6, microW4]

/-- The view `v` of a `START` that was accepted with the context `c`, at the entry of SendByte. -/
def startEntered (c : Context) (v : State) : State :=
  enterSendByte (wireAddress c.addrS) .s6 { v with
    ctx := some { c with state := .start }
    sdaDrv := some false
    sclDrv := some false
    trace := v.trace ++ startEvents c.clockLine c.dataLine
    env := afterMoves 6 v.env }

/-- The handle check, `Start`, and the Start condition on the lines (R160). -/
theorem quietRun_startEntered (hu : v.upc = .s0) (hh : handleOk (cmdHandle v) v = true) (hc : v.ctx = some c)
    (hq : c.state = .ready) : QuietRun 6 v (startEntered c v) := by
  have quiet : NotWaiting v := notWaiting_of_state hc (by simp [hq])
  refine .step (by simp [hu]) quiet (fgStep_check_pass (l' := .s1) (s := dropMoves v) (by decide) hu hh) ?_
  refine .step (by simp) quiet (fgStep_entry_grant (l := .s1) (l' := .s2) (q := .start) (by decide) rfl hc
    (.inr (hq ▸ by decide))) ?_
  refine .step (by simp) (notWaiting_of_state rfl (by simp)) (fgStep_s2 rfl rfl) ?_
  refine .step (by simp) (notWaiting_of_state rfl (by simp)) (fgStep_s3 rfl) ?_
  refine .step (by simp) (notWaiting_of_state rfl (by simp)) (fgStep_s4 rfl rfl) ?_
  refine .step (by simp) (notWaiting_of_state rfl (by simp)) (fgStep_s5 rfl rfl) ⟨trivial, ?_⟩
  simp [quietTicks, startEntered, enterSendByte, startEvents, goto, delay, logEvent, lineWrite, setCtx, dropMoves,
    afterMoves_add, busClockLine, busDataLine]

/-- The view `v` of a `START` that was accepted with the context `c`, at its response. -/
def started (c : Context) (sampled late : Bool) (v : State) : State :=
  let w := sent { c with state := .start } sampled late (startEntered c v)
  respond w.result (cmdHandle v) { w with env := afterMoves 39 v.env }

/-- `START` from `Ready`: the window of its SendByte is the boundaries from the 31st on. -/
theorem fgView_start (hv : fgView s = v) (hu : v.upc = .s0) (hh : handleOk (cmdHandle v) v = true)
    (hc : v.ctx = some c) (hq : c.state = .ready) (he : ∀ k < 7, TakesAt e (31 + k) s) :
    fgView (ticks 39 s) = started c (takenWithin e 31 6) (takenWithin e 31 7) v := by
  have entered := (quietRun_startEntered hu hh hc hq).fgView_ticks_add (m := 0) hv
  have back := fgView_sendByte entered rfl rfl rfl (by simp [legalEdges]) he
  refine QuietRun.fgView_ticks_add (n := 1) ?_ back
  refine .step (by simp [sent, startEntered, returnLabel]) (notWaiting_of_state rfl (by simp))
    (fgStep_answer (.inl rfl)) ⟨trivial, ?_⟩
  simp [quietTicks, started, sent, respond, startEntered, dropMoves, afterMoves_add, cmdHandle]

/-! ## `WRITE` -/

theorem fgStep_w2 (hu : s.upc = .w2) : fgStep s = enterSendByte (cmdByte s) .w3 s := by
  simp [fgStep, hu, microW2]

theorem fgStep_w3 (hu : s.upc = .w3) (hc : s.ctx = some c) (hq : c.state = .write) :
    fgStep s = goto .w4 (setCtx { c with state := .stop } s) := by
  have grant : transition .stop c = (.ok, { c with state := .stop }) := transition_legal (hq ▸ by decide)
  simp [fgStep, hu, microW3, withCtx, hc, grant]

/-- The view `v` of a `WRITE` that was accepted with the context `c`, at the entry of SendByte. -/
def writeEntered (c : Context) (v : State) : State :=
  enterSendByte (cmdByte v) .w3 { v with
    ctx := some { c with state := .write }
    env := afterMoves 3 v.env }

/-- The handle check and `Write`, which may be the state already (R165). -/
theorem quietRun_writeEntered (hu : v.upc = .w0) (hh : handleOk (cmdHandle v) v = true) (hc : v.ctx = some c)
    (hq : c.state = .write ∨ c.state = .stop) : QuietRun 3 v (writeEntered c v) := by
  have edge : .write = c.state ∨ (c.state, .write) ∈ legalEdges := by
    obtain hq | hq := hq <;> rw [hq] <;> decide
  have quiet : NotWaiting v := notWaiting_of_state hc (by obtain hq | hq := hq <;> simp [hq])
  refine .step (by simp [hu]) quiet (fgStep_check_pass (l' := .w1) (s := dropMoves v) (by decide) hu hh) ?_
  refine .step (by simp) quiet (fgStep_entry_grant (l := .w1) (l' := .w2) (q := .write) (by decide) rfl hc edge) ?_
  refine .step (by simp) (notWaiting_of_state rfl (by simp)) (fgStep_w2 rfl) ⟨trivial, ?_⟩
  simp [quietTicks, writeEntered, enterSendByte, goto, setCtx, dropMoves, afterMoves_add, cmdByte]

/-- The view `v` of a `WRITE` that was accepted with the context `c`, at its response. -/
def written (c : Context) (sampled late : Bool) (v : State) : State :=
  let w := sent { c with state := .write } sampled late (writeEntered c v)
  respond w.result (cmdHandle v) { w with
    ctx := some { c with state := .stop, ackEventCount := c.ackEventCount + if late then 1 else 0 }
    env := afterMoves 37 v.env }

/-- `WRITE` from `Write` or `Stop`: the window of its SendByte is the boundaries from the 28th on. -/
theorem fgView_write (hv : fgView s = v) (hu : v.upc = .w0) (hh : handleOk (cmdHandle v) v = true)
    (hc : v.ctx = some c) (hq : c.state = .write ∨ c.state = .stop) (he : ∀ k < 7, TakesAt e (28 + k) s) :
    fgView (ticks 37 s) = written c (takenWithin e 28 6) (takenWithin e 28 7) v := by
  have entered := (quietRun_writeEntered hu hh hc hq).fgView_ticks_add (m := 0) hv
  have back := fgView_sendByte entered rfl rfl rfl (by simp [legalEdges]) he
  refine QuietRun.fgView_ticks_add (n := 2) ?_ back
  refine .step (by simp [sent, writeEntered, returnLabel]) (notWaiting_of_state rfl (by simp))
    (fgStep_w3 rfl rfl rfl) ?_
  refine .step (by simp) (notWaiting_of_state rfl (by simp)) (fgStep_answer (.inr rfl)) ⟨trivial, ?_⟩
  simp [quietTicks, written, sent, respond, writeEntered, dropMoves, afterMoves_add, cmdHandle, setCtx, goto]

/-! ## The commands from `Idle` -/

/-- A command whose view is idle after `n` ticks ends in the state it then has. -/
theorem exec_of_fgView {i : Instr} {n : Nat} (hn : n ≤ 39) (hs : s.upc = .idle)
    (hv : fgView (ticks n (accept (encode i) (firstLabel i) s)) = v) (hi : v.upc = .idle) :
    exec i s = .next (ticks n (accept (encode i) (firstLabel i) s)) := by
  rw [exec_eq_runCommand]
  exact runCommand_of_ticks hn hs rfl ((congrArg (·.upc) hv).trans hi)

/-- `START` with the live context's handle in `Ready`. -/
theorem exec_start (hs : s.upc = .idle) (hh : handleOk h s = true) (hc : s.ctx = some c) (hq : c.state = .ready)
    (he : ∀ k < 7, TakesAt e (31 + k) (accept (encode (.start h)) .s0 s)) :
    exec (.start h) s = .next (ticks 39 (accept (encode (.start h)) .s0 s)) ∧
      fgView (ticks 39 (accept (encode (.start h)) .s0 s)) =
        started c (takenWithin e 31 6) (takenWithin e 31 7) (accept (encode (.start h)) .s0 (fgView s)) := by
  have view := fgView_start (fgView_accept (encode (.start h)) .s0 s) rfl
    ((handleOk_accept (fieldHandle_start h)).trans hh) hc hq he
  exact ⟨exec_of_fgView (i := .start h) (by decide) hs view rfl, view⟩

/-- `WRITE` with the live context's handle in `Write` or `Stop`. -/
theorem exec_write (b : Byte) (hs : s.upc = .idle) (hh : handleOk h s = true) (hc : s.ctx = some c)
    (hq : c.state = .write ∨ c.state = .stop)
    (he : ∀ k < 7, TakesAt e (28 + k) (accept (encode (.write b h)) .w0 s)) :
    exec (.write b h) s = .next (ticks 37 (accept (encode (.write b h)) .w0 s)) ∧
      fgView (ticks 37 (accept (encode (.write b h)) .w0 s)) =
        written c (takenWithin e 28 6) (takenWithin e 28 7) (accept (encode (.write b h)) .w0 (fgView s)) := by
  have view := fgView_write (fgView_accept (encode (.write b h)) .w0 s) rfl
    ((handleOk_accept (fieldHandle_write b h)).trans hh) hc hq he
  exact ⟨exec_of_fgView (i := .write b h) (by decide) hs view rfl, view⟩

/-- An edge taken at the sample is also taken before the return. -/
theorem answer_cases (e : Nat → Bool) (first k : Nat) :
    ((if takenWithin e first 6 then Status.ok else .nack) = .ok ∧ takenWithin e first 6 = true ∧
        k + (if takenWithin e first 7 then 1 else 0) = k + 1) ∨
      ((if takenWithin e first 6 then Status.ok else .nack) = .nack ∧ takenWithin e first 6 = false ∧
        (k + (if takenWithin e first 7 then 1 else 0) = k ∨ k + (if takenWithin e first 7 then 1 else 0) = k + 1)) := by
  rw [takenWithin_succ e first 6]
  cases takenWithin e first 6 with
  | true => exact .inl ⟨rfl, rfl, rfl⟩
  | false => cases e (first + 6) <;> simp

end

/-- Settles O29: whichever boundaries take the edge. -/
theorem startSendsTheAddressByte : Obligations.StartSendsTheAddressByte := by
  intro h s c hs hh hc hq
  obtain ⟨e, he⟩ := exists_takesAt (accept (encode (.start h)) .s0 s)
  obtain ⟨run, view⟩ := exec_start hs hh hc hq fun k _ => he (31 + k)
  have field := fieldHandle_start h
  obtain ⟨cfg, ctx, armed, sda, scl, upc, txbyte, bitidx, ret, acked, result, cmd, resp, trace, env⟩ :=
    fields_of_fgView view
  refine ⟨_, _, _, run, ctx, ⟨cfg, armed, rfl, rfl, rfl, rfl, rfl, upc⟩, rfl, sda, scl, txbyte, bitidx, ret,
    cmd, ?_, result, ?_, ?_, env⟩
  · rw [acked]
    exact answer_cases e 31 c.ackEventCount
  · exact resp.trans (congrArg (responseWord _) field)
  · rw [trace]
    simp [started, sent, startEntered, enterSendByte, wireAddress, cmdHandle, field]
    rfl

/-- Settles O30: whichever boundaries take the edge. -/
theorem writeSendsItsByte : Obligations.WriteSendsItsByte := by
  intro b h s c hs hh hc hq
  obtain ⟨e, he⟩ := exists_takesAt (accept (encode (.write b h)) .w0 s)
  obtain ⟨run, view⟩ := exec_write b hs hh hc hq fun k _ => he (28 + k)
  have field := fieldHandle_write b h
  have byte : fieldByte (encode (.write b h)) = b := fieldByte_wordW b h
  obtain ⟨cfg, ctx, armed, sda, scl, upc, txbyte, bitidx, ret, acked, result, cmd, resp, trace, env⟩ :=
    fields_of_fgView view
  refine ⟨_, _, _, run, ctx, ⟨cfg, armed, rfl, rfl, rfl, rfl, rfl, upc⟩, rfl, sda, scl, txbyte.trans byte, bitidx,
    ret, cmd, ?_, result, ?_, ?_, env⟩
  · rw [acked]
    exact answer_cases e 28 c.ackEventCount
  · exact resp.trans (congrArg (responseWord _) field)
  · rw [trace]
    simp [written, sent, writeEntered, enterSendByte, cmdHandle, cmdByte, field, byte]
    rfl

end Sys2Proof.Machine
end

section
/-! PROOFS. When the byte is acknowledged: under prompt service the boundary of an edge takes it (R138 to R140, R193),
and a silent peer takes none. -/

namespace Sys2Proof.Machine

/-! ## The labels of `START`, `WRITE` and SendByte -/

/-- The micro-step labels of `START`, `WRITE` and SendByte. -/
def drivingLabels : List Label :=
  [.s0, .s1, .s2, .s3, .s4, .s5, .s6, .w0, .w1, .w2, .w3, .w4, .b0, .b1, .b2, .a0, .a1, .a2, .a3, .a4, .a5, .a6, .a7]

section
variable {s t u : State} {c : Context} {k : Nat} {ls : List Label}

theorem upc_withCtx_mem {f : Context → State} (hu : s.upc ∈ ls) (hf : ∀ c, (f c).upc ∈ ls) :
    (withCtx s f).upc ∈ ls := by
  unfold withCtx
  split
  · exact hf _
  · exact hu

theorem upc_handleCheck_mem {l : Label} (hl : l ∈ ls) (hi : .idle ∈ ls) : (handleCheck l s).upc ∈ ls := by
  unfold handleCheck
  split
  · exact hl
  · exact hi

theorem upc_entryTransition_mem {l : Label} {q : ProtoState} (hu : s.upc ∈ ls) (hl : l ∈ ls) (hi : .idle ∈ ls) :
    (entryTransition q l s).upc ∈ ls := by
  refine upc_withCtx_mem hu fun c => ?_
  dsimp only
  split
  · exact hl
  · exact hi

/-- The micro-programs of the drive lead to each other and to `Idle`, never to the lifecycle. -/
theorem upc_fgStep_mem_driving (hu : s.upc ∈ drivingLabels) : (fgStep s).upc ∈ .idle :: drivingLabels := by
  have stay : s.upc ∈ .idle :: drivingLabels := List.mem_cons_of_mem _ hu
  unfold fgStep
  cases hl : s.upc with
  | s0 | w0 => exact upc_handleCheck_mem (by decide) (by decide)
  | s1 | w1 => exact upc_entryTransition_mem stay (by decide) (by decide)
  | s3 | s6 | w2 | w4 | a5 => simp [microS3, microS6, microW2, microW4, microA5, drivingLabels]
  | s2 | s4 | s5 | w3 | b0 | b1 | a1 | a2 | a3 | a4 | a6 =>
    refine upc_withCtx_mem stay fun c => ?_
    simp [drivingLabels]
  | a0 =>
    refine upc_withCtx_mem stay fun c => ?_
    dsimp only
    split <;> cases s.ret <;> simp [drivingLabels, returnLabel]
  | b2 =>
    refine upc_withCtx_mem stay fun c => ?_
    split <;> simp [drivingLabels]
  | a7 =>
    refine upc_withCtx_mem stay fun c => ?_
    split <;> cases s.ret <;> simp [drivingLabels, returnLabel]
  | _ => simp [hl, drivingLabels] at hu

/-! ## Prompt service takes the edge at its boundary (R193) -/

theorem applyMoves_cons (m : Move) (ms : List Move) (s : State) :
    applyMoves (m :: ms) s = applyMoves ms (applyMove m s) := rfl

theorem servicePending_prompt (h : s.cfg.irqService = .prompt) : servicePending s = serveIfEnabled s := by
  rw [servicePending, h]

theorem serveIfEnabled_enabled (h : handlerEnabled s = true) : serveIfEnabled s = ackIrq s := if_pos h

/-- Once the handler's edge is taken, further moves and runs leave the slot alone. -/
theorem ctx_serve_applyMoves (ms : List Move) (hq : NotWaiting s) : (serveIfEnabled (applyMoves ms s)).ctx = s.ctx := by
  have moved := ctx_of_fgView (fgView_applyMoves ms s hq)
  refine (ctx_of_fgView (fgView_serveIfEnabled _ ?_)).trans moved
  rw [moved]
  exact hq

/-- The taken run of the handler (R151). -/
theorem ctx_ackIrq_taken (hc : s.ctx = some c) (hq : c.state = .ackWait) : (ackIrq s).ctx = some (waited c true) := by
  rw [ackIrq_taken s c hc hq]
  rfl

/-- While armed, the moves of a boundary and the run of the handler take the edge exactly if one pends or is raised. -/
theorem ctx_serve_ackWait (ms : List Move) (ha : s.armed = true) (hc : s.ctx = some c) (hq : c.state = .ackWait) :
    (serveIfEnabled (applyMoves ms s)).ctx = some (waited c (s.irqPending || ms.contains .edge)) := by
  have enabled : ∀ t : State, t.armed = true → t.ctx = some c → handlerEnabled t = t.irqPending := fun t ha hc => by
    simp [handlerEnabled, ctxValid, ha, hc]
  induction ms generalizing s with
  | nil =>
    cases hp : s.irqPending with
    | true =>
      have serve : serveIfEnabled s = ackIrq s := serveIfEnabled_enabled ((enabled s ha hc).trans hp)
      exact (congrArg State.ctx serve).trans (ctx_ackIrq_taken hc hq)
    | false => exact (congrArg State.ctx (serveIfEnabled_disabled s ((enabled s ha hc).trans hp))).trans hc
  | cons m ms ih =>
    rw [applyMoves_cons]
    cases m with
    | edge =>
      have raised : (raiseEdge s).irqPending = true := by simp [ha]
      rw [applyMove, ih (s := raiseEdge s) ha hc, raised]
      simp
    | serve =>
      cases hp : s.irqPending with
      | true =>
        have taken := ctx_ackIrq_taken hc hq
        rw [applyMove, serveIfEnabled_enabled ((enabled s ha hc).trans hp),
          ctx_serve_applyMoves ms (notWaiting_of_state taken (by simp [waited])), taken]
        rfl
      | false =>
        rw [applyMove, serveIfEnabled_disabled s ((enabled s ha hc).trans hp), ih ha hc, hp]
        simp

/-- What is known after the `k`-th tick of an armed run of the drive under prompt service that began in `s`, while it
is not idle. -/
structure PromptRun (s : State) (k : Nat) (t : State) : Prop where
  driving : t.upc ∈ drivingLabels
  armed   : t.armed = true
  prompt  : t.cfg.irqService = .prompt
  live    : ctxValid t = true
  moves   : t.env.moves = s.env.moves.drop k
  settled : 0 < k → t.irqPending = false

theorem not_lifecycle_of_driving : ∀ l ∈ drivingLabels, l ∉ [Label.i6, .i7, .f2] := by decide

theorem not_idle_of_driving : ∀ l ∈ drivingLabels, l ≠ .idle := by decide

theorem promptRun_tick (h : PromptRun s k t) (hi : (tick t).upc ≠ .idle) : PromptRun s (k + 1) (tick t) := by
  have change := environmentChange_boundary t
  have here : (boundary t).upc ∈ drivingLabels := change.upc ▸ h.driving
  have keeps := foregroundKeeps_fgStep (not_lifecycle_of_driving _ here)
  have armed : (boundary t).armed = true := change.armed.trans h.armed
  have live : ctxValid (boundary t) = true := (ctxValid_of_environmentChange change).trans h.live
  have pending : (boundary t).irqPending = false := by
    simpa [handlerEnabled, armed, live] using promptServiceComesBeforeTheForeground t h.prompt
  have kept : ctxValid (fgStep (boundary t)) = ctxValid (boundary t) := by
    simpa [ctxValid] using congrArg Option.isSome keeps.slot
  have moves : (boundary t).env.moves = s.env.moves.drop (k + 1) := by
    rw [boundary_env, afterMoves, h.moves, List.drop_drop]
  rw [tick_busy t (not_idle_of_driving _ h.driving)] at hi ⊢
  exact ⟨(List.mem_cons.mp (upc_fgStep_mem_driving here)).resolve_left hi, keeps.armed.trans armed,
    (congrArg Config.irqService (keeps.cfg.trans change.cfg)).trans h.prompt, kept.trans live, keeps.moves.trans moves,
    fun _ => keeps.irqPending.trans pending⟩

theorem promptRun_ticks (h : PromptRun s 0 s) (hi : (ticks k s).upc ≠ .idle) : PromptRun s k (ticks k s) := by
  induction k with
  | zero => exact h
  | succ k ih =>
    rw [ticks_succ'] at hi ⊢
    exact promptRun_tick (ih fun hidle => hi (by rw [tick_idle _ hidle, hidle])) hi

/-- In such a run, after its first tick, a boundary takes the edge exactly if the environment raises one there. -/
theorem takesAt_of_promptRun (h : PromptRun s 0 s) (hk : 0 < k) : TakesAt (edgeAt s) k s := by
  intro c hi hc hq
  have run := promptRun_ticks h hi
  have served := ctx_serve_ackWait (s := dropMoves (ticks k s)) ((ticks k s).env.moves.headD []) run.armed hc hq
  have pending : (dropMoves (ticks k s)).irqPending = false := run.settled hk
  have edge : ((ticks k s).env.moves.headD []).contains .edge = edgeAt s k := by
    simp [edgeAt, run.moves, List.headD_eq_head?_getD, List.head?_drop]
  rw [pending, edge, Bool.false_or] at served
  have prompt : (applyMoves ((ticks k s).env.moves.headD []) (dropMoves (ticks k s))).cfg.irqService = .prompt :=
    (irqService_applyMoves _ _).trans run.prompt
  rw [boundary_eq, servicePending_prompt prompt]
  exact served

/-- An accepted command of the drive, armed and under prompt service. -/
theorem promptRun_accept {w : Word} {l : Label} (hl : l ∈ drivingLabels) (ha : s.armed = true)
    (hp : s.cfg.irqService = .prompt) (hc : s.ctx = some c) : PromptRun (accept w l s) 0 (accept w l s) :=
  ⟨hl, ha, hp, by simp [ctxValid, hc], rfl, fun h => absurd h (Nat.lt_irrefl 0)⟩

/-! ## A silent peer -/

/-- Moves that raise no edge change nothing while nothing pends. -/
theorem applyMoves_silent {ms : List Move} (hp : s.irqPending = false) (hms : ms.contains .edge = false) :
    applyMoves ms s = s := by
  induction ms with
  | nil => rfl
  | cons m ms ih =>
    cases m with
    | edge => simp at hms
    | serve =>
      rw [applyMoves_cons, applyMove, serveIfEnabled_disabled s (by simp [handlerEnabled, hp])]
      exact ih (by simpa using hms)

theorem silent_iff (s : State) :
    silent s = true ↔ s.irqPending = false ∧ ∀ ms ∈ s.env.moves, ms.contains .edge = false := by
  simp [silent]

/-- A silent boundary only uses an entry of the script, under either discipline. -/
theorem boundary_of_silent (h : silent s = true) : boundary s = dropMoves s := by
  obtain ⟨hp, hms⟩ := (silent_iff s).mp h
  have none_raised : (s.env.moves.headD []).contains .edge = false := by
    cases hm : s.env.moves with
    | nil => rfl
    | cons ms rest => exact hms ms (by simp [hm])
  rw [boundary_eq, applyMoves_silent (s := dropMoves s) hp none_raised]
  unfold servicePending
  split
  · exact serveIfEnabled_disabled _ (by simp [handlerEnabled, dropMoves, hp])
  · rfl

theorem silent_tick (h : silent s = true) : silent (tick s) = true := by
  by_cases hu : s.upc = .idle
  · rwa [tick_idle s hu]
  · obtain ⟨hp, hms⟩ := (silent_iff s).mp h
    have change := foregroundChange_fgStep (dropMoves s)
    rw [tick_busy s hu, boundary_of_silent h, silent_iff, change.moves]
    exact ⟨Bool.eq_false_iff.mpr fun hp' => Bool.eq_false_iff.mp hp (change.pending hp'),
      fun ms hm => hms ms (List.mem_of_mem_drop hm)⟩

theorem silent_ticks (n : Nat) (h : silent s = true) : silent (ticks n s) = true := by
  induction n with
  | zero => exact h
  | succ n ih =>
    rw [ticks_succ']
    exact silent_tick ih

/-- A silent peer takes no edge anywhere. -/
theorem takesAt_of_silent (h : silent s = true) : TakesAt (fun _ => false) k s := by
  intro c _ hc _
  rw [boundary_of_silent (silent_ticks k h)]
  exact hc

@[simp] theorem takenWithin_silent (first len : Nat) : takenWithin (fun _ => false) first len = false := by
  simp [takenWithin]

end

/-! ## The obligations -/

/-- Settles O38: the window of the byte is the boundaries from the 28th of the command on. -/
theorem writeIsAcknowledgedExactlyByAnEdgeInTheWindow : Obligations.WriteIsAcknowledgedExactlyByAnEdgeInTheWindow := by
  intro b h s c hs hh hc hq ha hp
  have prompt := promptRun_accept (w := encode (.write b h)) (l := .w0) (by decide) ha hp hc
  obtain ⟨run, view⟩ := exec_write b hs hh hc hq fun k _ => takesAt_of_promptRun prompt (k := 28 + k) (by omega)
  exact ⟨_, _, run, congrArg (·.ctx) view,
    (congrArg (·.resp) view).trans (congrArg (responseWord _) (fieldHandle_write b h)), rfl⟩

/-- Settles O39: the window of the byte is the boundaries from the 31st of the command on. -/
theorem startIsAcknowledgedExactlyByAnEdgeInTheWindow : Obligations.StartIsAcknowledgedExactlyByAnEdgeInTheWindow := by
  intro h s c hs hh hc hq ha hp
  have prompt := promptRun_accept (w := encode (.start h)) (l := .s0) (by decide) ha hp hc
  obtain ⟨run, view⟩ := exec_start hs hh hc hq fun k _ => takesAt_of_promptRun prompt (k := 31 + k) (by omega)
  exact ⟨_, _, run, congrArg (·.ctx) view,
    (congrArg (·.resp) view).trans (congrArg (responseWord _) (fieldHandle_start h)), rfl⟩

/-- Settles O41: no boundary takes an edge, and none is raised by the end. -/
theorem silentPeerMeansNack : Obligations.SilentPeerMeansNack := by
  intro h s c hs hh hc hsilent
  refine ⟨fun hq => ?_, fun b hq => ?_⟩
  · have quiet : silent (accept (encode (.start h)) .s0 s) = true := hsilent
    obtain ⟨run, view⟩ := exec_start hs hh hc hq fun k _ => takesAt_of_silent (k := 31 + k) quiet
    rw [takenWithin_silent, takenWithin_silent] at view
    exact ⟨_, { c with state := .write }, run, congrArg (·.ctx) view, rfl,
      (congrArg (·.resp) view).trans (congrArg (responseWord _) (fieldHandle_start h)), rfl,
      ((silent_iff _).mp (silent_ticks 39 quiet)).1⟩
  · have quiet : silent (accept (encode (.write b h)) .w0 s) = true := hsilent
    obtain ⟨run, view⟩ := exec_write b hs hh hc hq fun k _ => takesAt_of_silent (k := 28 + k) quiet
    rw [takenWithin_silent, takenWithin_silent] at view
    exact ⟨_, { c with state := .stop }, run, congrArg (·.ctx) view, rfl,
      (congrArg (·.resp) view).trans (congrArg (responseWord _) (fieldHandle_write b h)), rfl,
      ((silent_iff _).mp (silent_ticks 37 quiet)).1⟩

end Sys2Proof.Machine
end

section
/-! PROOFS. The response word (R78), the observation ports (R38) and the counter cycles of an interval (R33). -/

namespace Sys2Proof.Machine

/-- Bits 31:20 of the response word are reserved and zero (R78). -/
theorem extract_reserved_responseWord (st : Status) (h : Handle) : (responseWord st h).extractLsb' 20 12 = 0#12 := by
  apply BitVec.eq_of_getLsbD_eq
  intro i hi
  rw [BitVec.getLsbD_extractLsb', getLsbD_responseWord, if_neg (by omega), if_neg (by omega)]
  simp

/-- Settles O53: `respond` is that record update, and the fields of the word are read back one by one. -/
theorem respondWritesTheResponseWord : Obligations.RespondWritesTheResponseWord := fun st h s =>
  ⟨rfl, extract_reserved_responseWord st h, extract_status_responseWord st h, extract_handle_responseWord st h,
    by simp [busyO], by decide⟩

/-- Settles O54: each port is read off the slot. -/
theorem observationPortsShowTheContext : Obligations.ObservationPortsShowTheContext :=
  ⟨fun _ hc => by simp [ctxValidO, ctxValid, stateO, ackCountO, hc],
    fun _ _ hc => by simp [ctxValidO, ctxValid, stateO, ackCountO, hc], by decide⟩

/-- Settles O55: a quotient rounded up is the least bound. -/
theorem intervalCyclesRoundUp : Obligations.IntervalCyclesRoundUp := by
  intro cfg n
  simp only [intervalCycles]
  generalize intervalNs cfg n * cfg.cpuHz = ticks
  exact ⟨by omega, fun k hk => by omega⟩

end Sys2Proof.Machine
end
